-- ==== Sys2Proof/Word.lean ====
section
/-! DEFINITION. The widths NSB's registers and header fields use. -/

namespace Sys2Proof

/-- The unit of addressing (20_memory R61). -/
abbrev Byte := BitVec 8

/-- A 16-bit header field or checksum word. -/
abbrev Half := BitVec 16

/-- A host register or a word of a layer record (10_state R22, R40). -/
abbrev Word := BitVec 32

end Sys2Proof
end

