-- ==== Sys2Proof/Config.lean ====
section
/-! DEFINITION. What an implementation fixes (00_scope R5 to R9) and the free values the spec leaves open. -/

namespace Sys2Proof

/-- The closed enumeration of parsers and layer kinds (00_scope R16). -/
inductive Kind
  | none | eth | vlan | ip4 | ip6 | tcp | udp | icmp
deriving DecidableEq, Repr

/-- The transport protocols `CSUM.XPORT` selects by `SEL` (30_encoding R82). -/
inductive Xport
  | tcp | udp | icmp
deriving DecidableEq, Repr

/-- The build parameters (00_scope R5). Configuration, not state: no command and no register write changes them
(00_scope R7). `LAYER_SLOTS` always equals `maxDepth` and is not a parameter of its own. -/
structure Params where
  /-- `BUF_SIZE` -/
  bufSize : Nat
  /-- `MAX_DEPTH`, also `LAYER_SLOTS` -/
  maxDepth : Nat
  /-- `TPID`, "the 802.1Q tag identifier" -/
  tpid : Half
  /-- `ETH_MIN_FRAME`, "the Ethernet minimum (including FCS)" -/
  ethMinFrame : Nat
  /-- `ETYPE_TABLE` -/
  etypeTable : Half → Kind
  /-- `IPPROTO_TABLE` -/
  ipprotoTable : Byte → Kind
  /-- `FCS_CHECK`: the frame bytes before the FCS, and the FCS as a big-endian value -/
  fcsCheck : List Byte → Word → Bool

/-- The IPv6 extension-header numbers 44_dispatch_deep R194 lists; none of them maps to a parser. DESIGN CHOICE
(log 22): R194 says the same of "the rest" and does not say which numbers these are, so the nine it lists are the ones
an admissible build is asked about. -/
def ipv6ExtensionNumbers : List Byte := [0, 43, 44, 50, 51, 60, 135, 139, 140]

/-- The instantiations of the parameters the spec admits: the ranges of 00_scope R5, and the facts about the
tables that 00_scope R8 and 44_dispatch_deep R191, R194 say every instantiation keeps. DESIGN CHOICE (log 21): which
numbers are "the IPv4 and IPv6 EtherTypes" and the TCP, UDP and ICMP-family numbers of a build other than the default
one is left open, so a build need only map some number to each of these parsers. DESIGN CHOICE (log 22): of the IPv6
extension-header numbers only the listed ones are asked to map to no parser. -/
structure Params.Admissible (P : Params) : Prop where
  bufSize_min : 64 ≤ P.bufSize
  bufSize_max : P.bufSize ≤ 65536
  maxDepth_min : 1 ≤ P.maxDepth
  maxDepth_max : P.maxDepth ≤ 255
  etype_range : ∀ v, P.etypeTable v ∈ [Kind.none, Kind.vlan, Kind.ip4, Kind.ip6]
  ipproto_range : ∀ v, P.ipprotoTable v ∈ [Kind.none, Kind.tcp, Kind.udp, Kind.icmp]
  etype_ip4 : ∃ v, P.etypeTable v = Kind.ip4
  etype_ip6 : ∃ v, P.etypeTable v = Kind.ip6
  ipproto_tcp : ∃ v, P.ipprotoTable v = Kind.tcp
  ipproto_udp : ∃ v, P.ipprotoTable v = Kind.udp
  ipproto_icmp : ∃ v, P.ipprotoTable v = Kind.icmp
  ipproto_unassigned : P.ipprotoTable 0xFE = Kind.none
  ipproto_extension : ∀ v ∈ ipv6ExtensionNumbers, P.ipprotoTable v = Kind.none

/-- `FCS_CHECK` is uninterpreted (00_scope R9, 93_implementation_defined U1): a free value, log 6. -/
opaque Config.fcsCheck : List Byte → Word → Bool

/-- `Config.bufByte n a`: what `BUF[a]` holds after the `n`-th platform reset until the host writes it
(70_reset_and_hazards R262, 93_implementation_defined U2): a free value, log 2 and log 3. -/
opaque Config.bufByte : Nat → Nat → Byte

/-- `Config.slotWord n`: what the `n`-th host read returns if it reads an invalid layer slot
(10_state R42, 93_implementation_defined U3): a free value, one draw per read, log 4. -/
opaque Config.slotWord : Nat → Word

end Sys2Proof
end

