-- ==== Sys2Proof/Machine/Build.lean ====
section
/-! DEFINITION. The default build: the default values of the parameters (00_scope R5, 44_dispatch_deep R191).
`exec` and `step` run this build; every operation below them takes the parameters as an argument (log 5). -/

namespace Sys2Proof.Machine

/-- The default `TPID` (00_scope R5). -/
def defaultTpid : Half := 0x8100

/-- The default `ETYPE_TABLE` (44_dispatch_deep R191). -/
def defaultEtypeTable (v : Half) : Kind :=
  if v = 0x0800 then Kind.ip4
  else if v = 0x86DD then Kind.ip6
  else if v = defaultTpid then Kind.vlan
  else Kind.none

/-- The default `IPPROTO_TABLE` (44_dispatch_deep R191). -/
def defaultIpprotoTable (v : Byte) : Kind :=
  if v = 1 then Kind.icmp
  else if v = 6 then Kind.tcp
  else if v = 17 then Kind.udp
  else if v = 58 then Kind.icmp
  else Kind.none

/-- The default build (00_scope R5). -/
def build : Params :=
  { bufSize := 65536, maxDepth := 16, tpid := defaultTpid, ethMinFrame := 64,
    etypeTable := defaultEtypeTable, ipprotoTable := defaultIpprotoTable, fcsCheck := Config.fcsCheck }

end Sys2Proof.Machine
end

