-- ==== Sys2Proof/Syntax.lean ====
section
/-! DEFINITION. The commands of NSB, one constructor per row of the opcode map (30_encoding R81). -/

namespace Sys2Proof

/-- The 24 commands (30_encoding R81). The only operand a command word carries is `SEL` (30_encoding R85). -/
inductive Instr
  /-- `NOP` (45_system R220) -/
  | nop
  /-- `CUR.OPEN` (40_cursor R100) -/
  | curOpen
  /-- `CUR.RD8` (40_cursor R101) -/
  | curRd8
  /-- `CUR.RD16` (40_cursor R102) -/
  | curRd16
  /-- `CUR.RD32` (40_cursor R103) -/
  | curRd32
  /-- `CUR.RDB` (40_cursor R104) -/
  | curRdb
  /-- `CUR.PEEK` (40_cursor R105) -/
  | curPeek
  /-- `CUR.REM` (40_cursor R106) -/
  | curRem
  /-- `CUR.SKIP` (40_cursor R107) -/
  | curSkip
  /-- `CSUM.IP4` (41_checksum R126) -/
  | csumIp4
  /-- `CSUM.XPORT sel` (41_checksum R129) -/
  | csumXport (proto : Xport)
  /-- `PARSE.ETH` (42_parsers_link_net R142) -/
  | parseEth
  /-- `PARSE.VLAN` (42_parsers_link_net R146) -/
  | parseVlan
  /-- `PARSE.IP4` (42_parsers_link_net R150) -/
  | parseIp4
  /-- `PARSE.IP6` (42_parsers_link_net R156) -/
  | parseIp6
  /-- `PARSE.TCP` (43_parsers_transport R171) -/
  | parseTcp
  /-- `PARSE.UDP` (43_parsers_transport R176) -/
  | parseUdp
  /-- `PARSE.ICMP` (43_parsers_transport R181) -/
  | parseIcmp
  /-- `DISP.ETYPE` (44_dispatch_deep R192) -/
  | dispEtype
  /-- `DISP.IPPROTO` (44_dispatch_deep R193) -/
  | dispIpproto
  /-- `DEEP.START kind` (44_dispatch_deep R200) -/
  | deepStart (kind : Kind)
  /-- `DEEP.STEP` (44_dispatch_deep R201) -/
  | deepStep
  /-- `DEEP.RUN` (44_dispatch_deep R207) -/
  | deepRun
  /-- `CLEAR` (45_system R222) -/
  | clear
deriving DecidableEq, Repr

end Sys2Proof
end

