-- ==== Sys2Proof/WellFormed.lean ====
section
/-! DEFINITION. Which terms of `Instr` are commands of the opcode map (30_encoding R81, R82). -/

namespace Sys2Proof

/-- `DEEP.START` takes a `Kind` code from 1 to 7: `SEL = 0` is reserved (30_encoding R82). Every other constructor
can only be built with a legal `SEL`. -/
def Instr.wellFormed : Instr → Bool
  | .deepStart k => decide (k ≠ Kind.none)
  | .nop | .curOpen | .curRd8 | .curRd16 | .curRd32 | .curRdb | .curPeek | .curRem | .curSkip
  | .csumIp4 | .csumXport _ | .parseEth | .parseVlan | .parseIp4 | .parseIp6 | .parseTcp | .parseUdp | .parseIcmp
  | .dispEtype | .dispIpproto | .deepStep | .deepRun | .clear => true

end Sys2Proof
end

