-- ==== Sys2Proof/Decode.lean ====
section
/-! DEFINITION. The command word `CMDW` (30_encoding R80 to R85): the decoder, total on every 32-bit word, and
the encoder. -/

namespace Sys2Proof

/-! ### Fields of the command word (30_encoding R80) -/

/-- `OPCODE`, bits `[7:0]`. -/
def cmdOpcode (w : Word) : Byte := w.extractLsb' 0 8

/-- `SEL`, bits `[11:8]`. -/
def cmdSel (w : Word) : BitVec 4 := w.extractLsb' 8 4

/-- `RSV`, bits `[31:12]`. -/
def cmdRsv (w : Word) : BitVec 20 := w.extractLsb' 12 20

/-- A command word from its opcode and selector, `RSV = 0`: `(sel << 8) | OPCODE` (30_encoding R86). -/
def cmdWord (opcode : Byte) (sel : BitVec 4) : Word := (0 : BitVec 20) ++ sel ++ opcode

/-! ### Codes of the enumerations -/

/-- The 4-bit `Kind` code (00_scope R16). -/
def Kind.code : Kind → BitVec 4
  | .none => 0
  | .eth => 1
  | .vlan => 2
  | .ip4 => 3
  | .ip6 => 4
  | .tcp => 5
  | .udp => 6
  | .icmp => 7

/-- The parser a `DEEP.START` selector names (30_encoding R82): 1 to 7; 0 and 8 to 15 are reserved. -/
def Kind.ofSel (sel : BitVec 4) : Option Kind :=
  [Kind.eth, Kind.vlan, Kind.ip4, Kind.ip6, Kind.tcp, Kind.udp, Kind.icmp].find? (fun k => k.code == sel)

/-- The `SEL` code of `CSUM.XPORT` (30_encoding R82). -/
def Xport.code : Xport → BitVec 4
  | .tcp => 0
  | .udp => 1
  | .icmp => 2

/-- The protocol a `CSUM.XPORT` selector names (30_encoding R82): 0, 1, 2; 3 to 15 are reserved. -/
def Xport.ofSel (sel : BitVec 4) : Option Xport :=
  [Xport.tcp, Xport.udp, Xport.icmp].find? (fun x => x.code == sel)

/-! ### Decoding -/

/-- The opcode of `CSUM.XPORT` (30_encoding R81). -/
def opCsumXport : Byte := 0x11

/-- The opcode of `DEEP.START` (30_encoding R81). -/
def opDeepStart : Byte := 0x38

/-- The rows of the opcode map whose `SEL` must be 0 (30_encoding R81). -/
def plainOpcodes : List (Byte × Instr) :=
  [(0x00, .nop), (0x01, .curOpen), (0x02, .curRd8), (0x03, .curRd16), (0x04, .curRd32), (0x05, .curRdb),
   (0x06, .curPeek), (0x07, .curRem), (0x08, .curSkip), (0x10, .csumIp4),
   (0x20, .parseEth), (0x21, .parseVlan), (0x22, .parseIp4), (0x23, .parseIp6), (0x24, .parseTcp),
   (0x25, .parseUdp), (0x26, .parseIcmp), (0x30, .dispEtype), (0x31, .dispIpproto), (0x39, .deepStep),
   (0x3A, .deepRun), (0x7F, .clear)]

/-- Why a command word is illegal (30_encoding R83). -/
inductive Illegal
  /-- `RSV != 0` -/
  | reservedBits
  /-- `OPCODE` is not in the table of R81 -/
  | unknownOpcode
  /-- `SEL != 0` for a command that takes no selector -/
  | selNotZero
  /-- a reserved `SEL` of `CSUM.XPORT` or `DEEP.START` -/
  | selReserved
deriving DecidableEq, Repr

/-- What a command word is: one command of the map, or illegal. "Decoding is total" (30_encoding R83). -/
inductive Decoded
  | cmd (i : Instr)
  | illegal (why : Illegal)
deriving DecidableEq, Repr

/-- The decoder (30_encoding R80 to R84). -/
def decode (w : Word) : Decoded :=
  if cmdRsv w ≠ 0 then .illegal .reservedBits
  else if cmdOpcode w = opCsumXport then
    match Xport.ofSel (cmdSel w) with
    | some x => .cmd (.csumXport x)
    | none => .illegal .selReserved
  else if cmdOpcode w = opDeepStart then
    match Kind.ofSel (cmdSel w) with
    | some k => .cmd (.deepStart k)
    | none => .illegal .selReserved
  else
    match plainOpcodes.lookup (cmdOpcode w) with
    | none => .illegal .unknownOpcode
    | some i => if cmdSel w = 0 then .cmd i else .illegal .selNotZero

/-! ### Encoding -/

/-- `OPCODE` of a command (30_encoding R81). -/
def Instr.opcode : Instr → Byte
  | .nop => 0x00
  | .curOpen => 0x01
  | .curRd8 => 0x02
  | .curRd16 => 0x03
  | .curRd32 => 0x04
  | .curRdb => 0x05
  | .curPeek => 0x06
  | .curRem => 0x07
  | .curSkip => 0x08
  | .csumIp4 => 0x10
  | .csumXport _ => 0x11
  | .parseEth => 0x20
  | .parseVlan => 0x21
  | .parseIp4 => 0x22
  | .parseIp6 => 0x23
  | .parseTcp => 0x24
  | .parseUdp => 0x25
  | .parseIcmp => 0x26
  | .dispEtype => 0x30
  | .dispIpproto => 0x31
  | .deepStart _ => 0x38
  | .deepStep => 0x39
  | .deepRun => 0x3A
  | .clear => 0x7F

/-- `SEL` of a command (30_encoding R81, R82): 0 except for the two commands that take a selector. -/
def Instr.sel : Instr → BitVec 4
  | .csumXport x => x.code
  | .deepStart k => k.code
  | .nop | .curOpen | .curRd8 | .curRd16 | .curRd32 | .curRdb | .curPeek | .curRem | .curSkip
  | .csumIp4 | .parseEth | .parseVlan | .parseIp4 | .parseIp6 | .parseTcp | .parseUdp | .parseIcmp
  | .dispEtype | .dispIpproto | .deepStep | .deepRun | .clear => 0

/-- The encoder: the command word of an instruction (30_encoding R80, R86). -/
def encode (i : Instr) : Word := cmdWord i.opcode i.sel

/-- The instruction this decoder reads from an opcode-table row's bits. A command word is one 32-bit word, so the
bits above `nbits` are 0 and the word is the whole instruction; no answer where the decoder refuses. -/
def decodeTableWord (nbits w : Nat) : Option Instr :=
  match decode (BitVec.ofNat 32 (w % 2 ^ nbits)) with
  | .cmd i => some i
  | .illegal _ => none

end Sys2Proof
end

