-- ==== Sys2Proof/Machine/State.lean ====
section
/-! DEFINITION. The state of one NSB instance (10_state R20), its reset value (10_state R53, 70_reset_and_hazards
R260), and the reasons a step can stop. -/

namespace Sys2Proof.Machine

/-! ### Outcome of a command -/

/-- `STATUS.CODE` (60_exceptions R231): a closed enumeration (R230). -/
inductive Code
  | ok
  | unexpectedEof
  | truncatedPacket
  | invalidVersion
  | headerTooShort
  | malformedPacket
  | checksumMismatch
  | unsupportedProtocol
  | maxDepthExceeded
  | illegalCommand
  | badWindow
  | badState
deriving DecidableEq, Repr

/-- `STATUS` (10_state R31). The zero fields are not held (log 13). -/
structure Status where
  err : Bool
  code : Code
  layer : Byte
deriving DecidableEq, Repr

/-! ### Registers -/

/-- The operand registers (10_state R23): written by the host, read by the engine. `CFG` and `PH_CTL` are held
field by field, `PID` without its zero half (log 13). -/
structure Operands where
  fcsEn : Bool
  strict : Bool
  bufLen : Word
  winOff : Word
  winLen : Word
  opn : Word
  pid : Half
  phKind : BitVec 2
  phProto : Byte
  phLen : Word
  phSrc0 : Word
  phSrc1 : Word
  phSrc2 : Word
  phSrc3 : Word
  phDst0 : Word
  phDst1 : Word
  phDst2 : Word
  phDst3 : Word
deriving DecidableEq, Repr

/-- The result registers `RVAL`, `ROFF`, `RLEN`, `CSUM_RES`, `NEXT` (10_state R32 to R34). -/
structure Results where
  rval : Word
  roff : Word
  rlen : Word
  computed : Half
  stored : Half
  next : Kind
deriving DecidableEq, Repr

/-- The architectural cursor `CUR_BASE`, `CUR_LEN`, `CUR_POS` (10_state R35). -/
structure CursorRegs where
  base : Word
  len : Word
  pos : Word
deriving DecidableEq, Repr

/-- `DP_STATE` (10_state R36). -/
inductive DpState
  | idle | parsing | terminated | failed
deriving DecidableEq, Repr

/-- The deep-parse sequencer but for `NLAYERS` (10_state R36 to R38). -/
structure Sequencer where
  state : DpState
  next : Kind
  off : Word
  len : Word
  opqOff : Word
  opqLen : Word
deriving DecidableEq, Repr

/-! ### Layer records -/

/-- The next-protocol indicator of a layer: `IND_KIND` with `NEXT_IND` (10_state R44, 00_scope glossary). -/
inductive NextInd
  | none
  | etype (v : Half)
  | ipproto (v : Byte)
deriving DecidableEq, Repr

/-- EthernetFrame (10_state R46). `PCP`, `DEI`, `VID` are fields of `TCI`. -/
structure EthFields where
  dst : BitVec 48
  src : BitVec 48
  etherType : Half
  tci : Half
  fcs : Word
deriving DecidableEq, Repr

/-- One further 802.1Q tag (10_state R47). -/
structure VlanFields where
  tci : Half
  etherType : Half
deriving DecidableEq, Repr

/-- IPv4Packet (10_state R48). -/
structure Ip4Fields where
  version : BitVec 4
  ihl : BitVec 4
  dscp : BitVec 6
  ecn : BitVec 2
  totalLength : Half
  ident : Half
  flags : BitVec 3
  fragOff : BitVec 13
  ttl : Byte
  protocol : Byte
  checksum : Half
  src : Word
  dst : Word
deriving DecidableEq, Repr

/-- IPv6Packet (10_state R49). -/
structure Ip6Fields where
  version : BitVec 4
  tclass : Byte
  flow : BitVec 20
  payloadLength : Half
  nextHeader : Byte
  hopLimit : Byte
  src : BitVec 128
  dst : BitVec 128
deriving DecidableEq, Repr

/-- TcpSegment (10_state R50). -/
structure TcpFields where
  sport : Half
  dport : Half
  seq : Word
  ack : Word
  doff : BitVec 4
  flags : BitVec 12
  window : Half
  checksum : Half
  urgent : Half
deriving DecidableEq, Repr

/-- UdpDatagram (10_state R51). -/
structure UdpFields where
  sport : Half
  dport : Half
  length : Half
  checksum : Half
deriving DecidableEq, Repr

/-- IcmpMessage, partial (10_state R52). -/
structure IcmpFields where
  type : Byte
  code : Byte
  checksum : Half
deriving DecidableEq, Repr

/-- The decoded structure of a layer, tagged by its kind: "a closed tagged-variant type enumerating every
supported layer kind" (00_scope R16, 10_state R40). A valid slot's kind is never `NONE`. -/
inductive LayerBody
  | eth (f : EthFields)
  | vlan (f : VlanFields)
  | ip4 (f : Ip4Fields)
  | ip6 (f : Ip6Fields)
  | tcp (f : TcpFields)
  | udp (f : UdpFields)
  | icmp (f : IcmpFields)
deriving DecidableEq, Repr

/-- One valid slot of the layer file (10_state R40, R44). The host's 32 words are computed from it
(`LayerRec.word`, log 12). -/
structure LayerRec where
  ckValid : Bool
  ckChecked : Bool
  lenMismatch : Bool
  tagged : Bool
  hdrOff : Word
  hdrLen : Word
  payOff : Word
  payLen : Word
  ind : NextInd
  optOff : Word
  optLen : Word
  body : LayerBody
deriving DecidableEq, Repr

/-! ### Memory and the host -/

/-- The frame buffer `BUF` (10_state R21) as the bytes the host has written since reset: addresses strictly
rising. An address not listed holds no stored byte (log 2). -/
abbrev Memory := List Host.Cell

/-- The width of a host access (20_memory R64, R66). -/
inductive AccessSize
  | byte1 | byte2 | byte4
deriving DecidableEq, Repr

/-- What the host agent may do between commands (00_scope R10). -/
inductive HostOp
  /-- a bus read of the host space (20_memory R68) -/
  | read (size : AccessSize) (addr : BitVec 17)
  /-- a bus write of the host space; a full aligned one to address 0 is a command (10_state R30) -/
  | write (size : AccessSize) (addr : BitVec 17) (data : Word)
  /-- `HostLoad(off, bytes)` (20_memory R62) -/
  | load (off : Nat) (bytes : List Byte)
  /-- the platform's reset (70_reset_and_hazards R261) -/
  | reset
deriving DecidableEq, Repr

/-! ### The state -/

/-- The whole state of one NSB instance (10_state R20), and four fields of the model's own: `hostOps`,
`readData`, `reads`, `resets`. -/
structure State where
  /-- `BUF` -/
  mem : Memory
  /-- the operand registers -/
  opr : Operands
  /-- `STATUS` -/
  status : Status
  /-- the result registers -/
  res : Results
  /-- the architectural cursor -/
  cur : CursorRegs
  /-- the deep-parse sequencer -/
  dp : Sequencer
  /-- the valid slots `LAYER[0..NLAYERS-1]`, outermost layer first; `NLAYERS` is its length (log 11) -/
  layers : List LayerRec
  /-- MODEL's own: the host operations still to come, first one first (log 1) -/
  hostOps : List HostOp
  /-- MODEL's own: the data the last host read returned (log 7) -/
  readData : Word
  /-- MODEL's own: how many host reads there have been; numbers the draws of `Config.slotWord` (log 4) -/
  reads : Nat
  /-- MODEL's own: how many platform resets there have been; numbers the draws of `Config.bufByte` (log 3) -/
  resets : Nat
deriving DecidableEq, Repr

/-- `OK` with `ERR = 0`, `LAYER = 0`: the `STATUS` word 0. -/
def Status.okay : Status := { err := false, code := .ok, layer := 0 }

/-- Operand registers after reset: all 0 (10_state R23, R53). -/
def Operands.reset : Operands :=
  { fcsEn := false, strict := false, bufLen := 0, winOff := 0, winLen := 0, opn := 0, pid := 0,
    phKind := 0, phProto := 0, phLen := 0,
    phSrc0 := 0, phSrc1 := 0, phSrc2 := 0, phSrc3 := 0, phDst0 := 0, phDst1 := 0, phDst2 := 0, phDst3 := 0 }

/-- Result registers after reset: all 0 (10_state R32 to R34, R53). -/
def Results.reset : Results := { rval := 0, roff := 0, rlen := 0, computed := 0, stored := 0, next := Kind.none }

/-- The empty cursor `(0, 0, 0)` (10_state R35). -/
def CursorRegs.reset : CursorRegs := { base := 0, len := 0, pos := 0 }

/-- The sequencer after reset: `IDLE`, `NONE`, empty slices (10_state R36, R53). -/
def Sequencer.reset : Sequencer :=
  { state := .idle, next := Kind.none, off := 0, len := 0, opqOff := 0, opqLen := 0 }

/-- The machine right after reset (70_reset_and_hazards R260): every register 0, no valid layer slot, every byte
of `BUF` unspecified, the engine idle and waiting for the first `CMD` write. -/
def State.reset : State :=
  { mem := [], opr := Operands.reset, status := Status.okay, res := Results.reset, cur := CursorRegs.reset,
    dp := Sequencer.reset, layers := [], hostOps := [], readData := 0, reads := 0, resets := 0 }

/-! ### Why a step can stop -/

/-- Faults. The spec names none: every command word ends in an outcome written to `STATUS`
(60_exceptions R230), and no host access faults (20_memory R66). These two stand for cases to which the spec gives
no meaning. -/
inductive Fault
  /-- Raised by `DEEP.STEP` and `DEEP.RUN` when `DP_STATE = PARSING`, the slice is good, the depth bound is not
  reached and `DP_NEXT = NONE`: 44_dispatch_deep R202 gives no parser for `NONE`. No run from reset gets there
  (10_state R37). Safe (log 8). -/
  | noParserSelected
  /-- Raised by the host operation `HostLoad(off, bytes)` when `off + len(bytes) > BUF_SIZE`: 20_memory R62 does
  not allow it, and the addresses beyond `BUF_SIZE - 1` do not exist. No command raises it. Safe (log 9). -/
  | loadOutsideBuffer
deriving DecidableEq, Repr

/-- Refusals. -/
inductive Refusal
  /-- Raised by `exec` for an instruction that has no meaning in this model. No arm raises it now: all 24 commands
  are modelled. Safe. -/
  | notModelled (mnemonic : String)
deriving DecidableEq, Repr

/-- The outcome of a step of this machine. -/
abbrev Outcome := Host.Outcome State Fault Refusal

end Sys2Proof.Machine
end

