-- ==== Sys2Proof/Machine/Ops.lean ====
section
/-! DEFINITION. The named operations over memory and registers, the two outcomes of a command (success, and
failure: the counterpart of taking an exception), the window check, and the local cursor every parser uses. -/

namespace Sys2Proof.Machine

/-! ### Memory: one byte -/

/-- The stored byte at an address, if the host has written one since reset. -/
def Memory.stored (m : Memory) (a : Nat) : Option Byte :=
  match m with
  | [] => none
  | (k, v) :: rest => if k = a then some v else Memory.stored rest a

/-- Store one byte, keeping the addresses strictly rising. -/
def Memory.put (m : Memory) (a : Nat) (b : Byte) : Memory :=
  match m with
  | [] => [(a, b)]
  | (k, v) :: rest =>
    if a < k then (a, b) :: (k, v) :: rest
    else if a = k then (a, b) :: rest
    else (k, v) :: Memory.put rest a b

/-- Store a list of bytes from an address upwards (20_memory R62). -/
def Memory.putBytes (m : Memory) (a : Nat) (bs : List Byte) : Memory :=
  match bs with
  | [] => m
  | b :: rest => Memory.putBytes (Memory.put m a b) (a + 1) rest

/-- The canonical form: addresses strictly rising and inside the buffer, so that equal memories are equal data. An
unlisted address holds no stored byte, so no entry can equal what an unlisted address holds (log 2). -/
abbrev Memory.wf (P : Params) (m : Memory) : Prop :=
  m.Pairwise (fun c d => c.1 < d.1) ∧ ∀ c ∈ m, c.1 < P.bufSize

/-- `BUF[a]`: the stored byte; where the host has written none since reset, an unspecified value
(70_reset_and_hazards R262): the free value `Config.bufByte` (log 2). -/
def State.byteAt (s : State) (a : Nat) : Byte :=
  match Memory.stored s.mem a with
  | some b => b
  | none => Config.bufByte s.resets a

/-! ### Memory: byte lists and big-endian values (00_scope R13, 20_memory R63) -/

/-- `Bytes(a, n)`: the bytes `BUF[a] .. BUF[a+n-1]` of a buffer given by its bytes. -/
def bytesFrom (buf : Nat → Byte) (a : Nat) : Nat → List Byte
  | 0 => []
  | n + 1 => buf a :: bytesFrom buf (a + 1) n

/-- The value of a byte list, first byte most significant. -/
def beValue (bs : List Byte) : Nat := bs.foldl (fun acc b => acc * 256 + b.toNat) 0

/-- `MemRead(a, w / 8)` as a `w`-bit value: big-endian, at any alignment (20_memory R63, R65). -/
def memRead (buf : Nat → Byte) (w : Nat) (a : Nat) : BitVec w := BitVec.ofNat w (beValue (bytesFrom buf a (w / 8)))

/-! ### Register updates -/

/-- Write `BUF`: the host alone does this (20_memory R62). -/
def State.setMem (s : State) (m : Memory) : State := { s with mem := m }

/-- Write the operand registers: the host alone does this (00_scope R10). -/
def State.setOpr (s : State) (o : Operands) : State := { s with opr := o }

/-- Write `STATUS`, a command's last effect (10_state R31). -/
def State.setStatus (s : State) (st : Status) : State := { s with status := st }

/-- Write the result registers. -/
def State.setRes (s : State) (r : Results) : State := { s with res := r }

/-- Write the architectural cursor. -/
def State.setCur (s : State) (c : CursorRegs) : State := { s with cur := c }

/-- Write the sequencer registers. -/
def State.setDp (s : State) (d : Sequencer) : State := { s with dp := d }

/-- Write the layer file with `NLAYERS`: exactly the listed slots are valid (10_state R40). -/
def State.setLayers (s : State) (ls : List LayerRec) : State := { s with layers := ls }

/-- Set what the host still has to do. -/
def State.setHostOps (s : State) (ops : List HostOp) : State := { s with hostOps := ops }

/-- Return data to the host, counting the read. -/
def State.setReadData (s : State) (d : Word) : State := { s with readData := d, reads := s.reads + 1 }

/-- `RVAL <- v` (10_state R32). -/
def State.setRval (s : State) (v : Word) : State := s.setRes { s.res with rval := v }

/-- `(ROFF, RLEN) <- (off, len)` (10_state R32). -/
def State.setSlice (s : State) (off len : Word) : State := s.setRes { s.res with roff := off, rlen := len }

/-- `CUR_POS <- p` (10_state R35). -/
def State.setPos (s : State) (p : Word) : State := s.setCur { s.cur with pos := p }

/-- `NLAYERS` (10_state R36): the number of valid slots (log 11). -/
def State.nlayers (s : State) : Nat := s.layers.length

/-! ### The outcome of a command -/

/-- Success: `STATUS <- OK`. -/
def State.succeed (s : State) : State := s.setStatus Status.okay

/-- A failing command, the counterpart of taking an exception (60_exceptions R236): `STATUS <- (1, code, layer)`
and nothing else. The parser and deep-parse rows of R236 write `NLAYERS` and `DP_STATE` besides: `shallowResult`,
`deepBody`. Nothing is saved, no mode changes, control goes nowhere, and there is no return (R241): the next
command finds the engine idle. -/
def State.fail (s : State) (code : Code) (layer : Nat) : State :=
  s.setStatus { err := true, code := code, layer := BitVec.ofNat 8 layer }

/-! ### The window check (60_exceptions R234) -/

/-- `o + n <= BUF_LEN and BUF_LEN <= BUF_SIZE`, on unbounded naturals. -/
abbrev State.sliceOk (s : State) (P : Params) (o n : Nat) : Prop :=
  o + n ≤ s.opr.bufLen.toNat ∧ s.opr.bufLen.toNat ≤ P.bufSize

/-! ### The local cursor (00_scope R15) -/

/-- A local cursor `(base, len, pos)`; it lives inside one parser function. -/
structure LocalCursor where
  base : Nat
  len : Nat
  pos : Nat
deriving DecidableEq, Repr

/-- `cursor(off, len)`. -/
def LocalCursor.start (off len : Nat) : LocalCursor := { base := off, len := len, pos := 0 }

/-- `rem(c)`. -/
def LocalCursor.remaining (c : LocalCursor) : Nat := c.len - c.pos

/-- `c` moved on by `n` bytes. -/
def LocalCursor.advance (c : LocalCursor) (n : Nat) : LocalCursor := { c with pos := c.pos + n }

/-- `rd(c, w / 8)`: a `w`-bit big-endian field and the cursor after it. -/
def LocalCursor.rd (c : LocalCursor) (buf : Nat → Byte) (w : Nat) : Except Code (BitVec w × LocalCursor) :=
  if w / 8 > c.remaining then .error .unexpectedEof
  else .ok (memRead buf w (c.base + c.pos), c.advance (w / 8))

/-- `rdbytes(c, n)`: the slice of the next `n` bytes and the cursor after it. -/
def LocalCursor.rdBytes (c : LocalCursor) (n : Nat) : Except Code ((Nat × Nat) × LocalCursor) :=
  if n > c.remaining then .error .unexpectedEof
  else .ok ((c.base + c.pos, n), c.advance n)

/-- `peek(c, n)`: the slice of the next `n` bytes; the position does not move. -/
def LocalCursor.peek (c : LocalCursor) (n : Nat) : Except Code (Nat × Nat) :=
  if n > c.remaining then .error .unexpectedEof else .ok (c.base + c.pos, n)

/-- `skip(c, n)`. -/
def LocalCursor.skip (c : LocalCursor) (n : Nat) : Except Code LocalCursor :=
  if n > c.remaining then .error .unexpectedEof else .ok (c.advance n)

end Sys2Proof.Machine
end

