-- ==== Sys2Proof/Machine/Operands.lean ====
section
/-! DEFINITION. The operand forms of the commands (30_encoding R85): each is read, when the command executes, as
the full unsigned value of the register or field. -/

namespace Sys2Proof.Machine

/-! ### The window, the cursor slice, the deep-parse slice -/

/-- `WIN_OFF` as a natural. -/
def State.winOff (s : State) : Nat := s.opr.winOff.toNat

/-- `WIN_LEN` as a natural. -/
def State.winLen (s : State) : Nat := s.opr.winLen.toNat

/-- `OPN` as a natural. -/
def State.count (s : State) : Nat := s.opr.opn.toNat

/-- The window passes the window check (60_exceptions R234). -/
abbrev State.windowOk (s : State) (P : Params) : Prop := s.sliceOk P s.winOff s.winLen

/-- The cursor slice `(CUR_BASE, CUR_LEN)` passes it (40_cursor R108). -/
abbrev State.cursorOk (s : State) (P : Params) : Prop := s.sliceOk P s.cur.base.toNat s.cur.len.toNat

/-- The deep-parse slice `(DP_OFF, DP_LEN)` passes it (44_dispatch_deep R201). -/
abbrev State.deepOk (s : State) (P : Params) : Prop := s.sliceOk P s.dp.off.toNat s.dp.len.toNat

/-- `CUR_LEN - CUR_POS`, on naturals (41_checksum R131). -/
def State.curRemaining (s : State) : Nat := s.cur.len.toNat - s.cur.pos.toNat

/-- `CUR_BASE + CUR_POS`, on naturals: the address the next cursor read starts at. -/
def State.curAddr (s : State) : Nat := s.cur.base.toNat + s.cur.pos.toNat

/-! ### Protocol identifiers (10_state R29) -/

/-- `PID[15:0]`, the operand of `DISP.ETYPE`. -/
def State.pidEtype (s : State) : Half := s.opr.pid

/-- `PID[7:0]`, the operand of `DISP.IPPROTO`; `PID[15:8]` is ignored. -/
def State.pidIpproto (s : State) : Byte := s.opr.pid.extractLsb' 0 8

/-! ### The pseudo-header (41_checksum R125, 10_state R27, R28) -/

/-- The pseudo-header kinds that mean something; `PH_KIND = 3` is reserved. -/
inductive PhKind
  | none | v4 | v6
deriving DecidableEq, Repr

/-- A pseudo-header `(kind, src, dst, proto, len)` (41_checksum R125). -/
structure PseudoHeader where
  kind : PhKind
  src : BitVec 128
  dst : BitVec 128
  proto : Byte
  len : Word
deriving DecidableEq, Repr

/-- `(NONE, 0, 0, 0, 0)`. -/
def PseudoHeader.absent : PseudoHeader := { kind := PhKind.none, src := 0, dst := 0, proto := 0, len := 0 }

/-- `PH_KIND` (10_state R23): 0 `NONE`, 1 `V4`, 2 `V6`, 3 reserved. -/
def phKindOf (v : BitVec 2) : Option PhKind :=
  if v = 0 then some PhKind.none
  else if v = 1 then some PhKind.v4
  else if v = 2 then some PhKind.v6
  else none

/-- `PH_SRC = {PH_SRC0, PH_SRC1, PH_SRC2, PH_SRC3}` (10_state R23). -/
def Operands.phSrc (o : Operands) : BitVec 128 := o.phSrc0 ++ o.phSrc1 ++ o.phSrc2 ++ o.phSrc3

/-- `PH_DST`, same form. -/
def Operands.phDst (o : Operands) : BitVec 128 := o.phDst0 ++ o.phDst1 ++ o.phDst2 ++ o.phDst3

/-- The pseudo-header in the registers; no answer for the reserved kind, which makes the command fail with
`IllegalCommand` (10_state R28). -/
def State.pseudoHeader (s : State) : Option PseudoHeader :=
  match phKindOf s.opr.phKind with
  | some k => some { kind := k, src := s.opr.phSrc, dst := s.opr.phDst, proto := s.opr.phProto, len := s.opr.phLen }
  | none => none

end Sys2Proof.Machine
end

