-- ==== Sys2Proof/Machine/Flags.lean ====
section
/-! DEFINITION. The words the host reads that are made of flags and fields (`STATUS`, `CFG`, `PH_CTL`, `DP_CTL`,
`CSUM_RES`, `HEAD`, `IND`), the flags of a layer record, and `MkRec`. -/

namespace Sys2Proof.Machine

/-! ### Codes -/

/-- The number of an outcome code (60_exceptions R231). -/
def Code.number : Code → BitVec 4
  | .ok => 0
  | .unexpectedEof => 1
  | .truncatedPacket => 2
  | .invalidVersion => 3
  | .headerTooShort => 4
  | .malformedPacket => 5
  | .checksumMismatch => 6
  | .unsupportedProtocol => 7
  | .maxDepthExceeded => 8
  | .illegalCommand => 9
  | .badWindow => 10
  | .badState => 11

/-- The `ERR` bit a code comes with (60_exceptions R231): `OK` and `UnsupportedProtocol` are not errors. -/
def Code.isError : Code → Bool
  | .ok | .unsupportedProtocol => false
  | .unexpectedEof | .truncatedPacket | .invalidVersion | .headerTooShort | .malformedPacket | .checksumMismatch
  | .maxDepthExceeded | .illegalCommand | .badWindow | .badState => true

/-- `DP_STATE` as its 2-bit code (10_state R36). -/
def DpState.code : DpState → BitVec 2
  | .idle => 0
  | .parsing => 1
  | .terminated => 2
  | .failed => 3

/-! ### Register words -/

/-- One flag as one bit. -/
def flagBit (b : Bool) : BitVec 1 := BitVec.ofBool b

/-- `STATUS`: `ERR`, zero, `CODE`, `LAYER`, zero (10_state R31). -/
def Status.word (st : Status) : Word := (0 : Half) ++ st.layer ++ st.code.number ++ (0 : BitVec 3) ++ flagBit st.err

/-- `CFG`: `FCS_EN`, `STRICT`, zero (10_state R23). -/
def Operands.cfgWord (o : Operands) : Word := (0 : BitVec 30) ++ flagBit o.strict ++ flagBit o.fcsEn

/-- `PID`, zero-extended (10_state R23). -/
def Operands.pidWord (o : Operands) : Word := o.pid.setWidth 32

/-- `PH_CTL`: `PH_KIND`, zero, `PH_PROTO`, zero (10_state R23). -/
def Operands.phCtlWord (o : Operands) : Word := (0 : Half) ++ o.phProto ++ (0 : BitVec 6) ++ o.phKind

/-- `CSUM_RES = {STORED, CALC}` (10_state R33). -/
def Results.csumWord (r : Results) : Word := r.stored ++ r.computed

/-- `NEXT`: the `Kind` code, zero-extended (10_state R34). -/
def Results.nextWord (r : Results) : Word := r.next.code.setWidth 32

/-- `DP_CTL`: `DP_STATE`, zero, `DP_NEXT`, zero (10_state R36). -/
def Sequencer.ctlWord (d : Sequencer) : Word := (0 : BitVec 24) ++ d.next.code ++ (0 : BitVec 2) ++ d.state.code

/-- `ID`, ASCII "NSB1" (10_state R39). -/
def idWord : Word := 0x4E534231

/-- `PARAMS = {7'b0, BUF_SIZE[16:0], MAX_DEPTH[7:0]}` (10_state R39). -/
def paramsWord (P : Params) : Word := (0 : BitVec 7) ++ BitVec.ofNat 17 P.bufSize ++ BitVec.ofNat 8 P.maxDepth

/-! ### Words of a layer record (10_state R40 to R52) -/

/-- The tag of a decoded structure. -/
def LayerBody.kind : LayerBody → Kind
  | .eth _ => Kind.eth
  | .vlan _ => Kind.vlan
  | .ip4 _ => Kind.ip4
  | .ip6 _ => Kind.ip6
  | .tcp _ => Kind.tcp
  | .udp _ => Kind.udp
  | .icmp _ => Kind.icmp

/-- The kind of a layer. -/
def LayerRec.kind (r : LayerRec) : Kind := r.body.kind

/-- `PCP = TCI[15:13]`. -/
def tciPcp (tci : Half) : BitVec 3 := tci.extractLsb' 13 3

/-- `DEI = TCI[12]`. -/
def tciDei (tci : Half) : BitVec 1 := tci.extractLsb' 12 1

/-- `VID = TCI[11:0]`. -/
def tciVid (tci : Half) : BitVec 12 := tci.extractLsb' 0 12

/-- A field zero-extended to a word: the layer file holds one field per word (10_state R44 to R52). -/
def fieldWord {n : Nat} (v : BitVec n) : Word := v.setWidth 32

/-- A 128-bit field as four words, most significant first. -/
def wordsOf128 (v : BitVec 128) : List Word :=
  [v.extractLsb' 96 32, v.extractLsb' 64 32, v.extractLsb' 32 32, v.extractLsb' 0 32]

/-- The words from `W8` on that a kind defines (10_state R46 to R52). -/
def LayerBody.words : LayerBody → List Word
  | .eth f =>
    [fieldWord (f.dst.extractLsb' 32 16), f.dst.extractLsb' 0 32,
     fieldWord (f.src.extractLsb' 32 16), f.src.extractLsb' 0 32,
     fieldWord f.etherType, fieldWord f.tci, fieldWord (tciPcp f.tci), fieldWord (tciDei f.tci),
     fieldWord (tciVid f.tci), f.fcs]
  | .vlan f =>
    [fieldWord f.tci, fieldWord (tciPcp f.tci), fieldWord (tciDei f.tci), fieldWord (tciVid f.tci),
     fieldWord f.etherType]
  | .ip4 f =>
    [fieldWord f.version, fieldWord f.ihl, fieldWord f.dscp, fieldWord f.ecn, fieldWord f.totalLength,
     fieldWord f.ident, fieldWord f.flags, fieldWord f.fragOff, fieldWord f.ttl, fieldWord f.protocol,
     fieldWord f.checksum, f.src, f.dst]
  | .ip6 f =>
    [fieldWord f.version, fieldWord f.tclass, fieldWord f.flow, fieldWord f.payloadLength,
     fieldWord f.nextHeader, fieldWord f.hopLimit] ++ wordsOf128 f.src ++ wordsOf128 f.dst
  | .tcp f =>
    [fieldWord f.sport, fieldWord f.dport, f.seq, f.ack, fieldWord f.doff, fieldWord f.flags,
     fieldWord f.window, fieldWord f.checksum, fieldWord f.urgent]
  | .udp f => [fieldWord f.sport, fieldWord f.dport, fieldWord f.length, fieldWord f.checksum]
  | .icmp f => [fieldWord f.type, fieldWord f.code, fieldWord f.checksum]

/-- `HAS_OPTS`: 1 iff `OPT_LEN > 0`, for `IP4` and `TCP` only (10_state R44). -/
def LayerRec.hasOpts (r : LayerRec) : Bool :=
  decide (r.kind = Kind.ip4 ∨ r.kind = Kind.tcp) && decide (r.optLen ≠ 0)

/-- `HEAD` (10_state R44). -/
def LayerRec.head (r : LayerRec) : Word :=
  (0 : BitVec 19) ++ flagBit r.hasOpts ++ flagBit r.tagged ++ flagBit r.lenMismatch ++ flagBit r.ckChecked
    ++ flagBit r.ckValid ++ (0 : BitVec 4) ++ r.kind.code

/-- `IND_KIND` (10_state R44). -/
def NextInd.code : NextInd → BitVec 2
  | .none => 0
  | .etype _ => 1
  | .ipproto _ => 2

/-- `NEXT_IND`: 0 without an indicator, an IP protocol number zero-extended (10_state R44). -/
def NextInd.value : NextInd → Half
  | .none => 0
  | .etype v => v
  | .ipproto v => v.setWidth 16

/-- `IND` (10_state R44). -/
def NextInd.word (i : NextInd) : Word := (0 : BitVec 14) ++ i.code ++ i.value

/-- The common words `W0 .. W7` (10_state R44). -/
def LayerRec.commonWords (r : LayerRec) : List Word :=
  [r.head, r.hdrOff, r.hdrLen, r.payOff, r.payLen, r.ind.word, r.optOff, r.optLen]

/-- Word `w` of a valid slot; a word the slot's kind does not define reads 0 (10_state R42). -/
def LayerRec.word (r : LayerRec) (w : Nat) : Word := (r.commonWords ++ r.body.words).getD w 0

/-! ### Building a record -/

/-- The flags a parser gives `MkRec`; "those not named are 0" (42_parsers_link_net R141). -/
structure RecFlags where
  ckValid : Bool := false
  ckChecked : Bool := false
  lenMismatch : Bool := false
  tagged : Bool := false
deriving DecidableEq, Repr

/-- `MkRec(kind, off, hdr, pay, ik, ind, opt, flags, fields)` (42_parsers_link_net R141). -/
def mkRec (off hdr pay : Nat) (ind : NextInd) (opt : Nat) (flags : RecFlags) (body : LayerBody) : LayerRec :=
  { ckValid := flags.ckValid, ckChecked := flags.ckChecked, lenMismatch := flags.lenMismatch, tagged := flags.tagged,
    hdrOff := BitVec.ofNat 32 off, hdrLen := BitVec.ofNat 32 hdr,
    payOff := BitVec.ofNat 32 (off + hdr), payLen := BitVec.ofNat 32 pay,
    ind := ind, optOff := BitVec.ofNat 32 (off + hdr - opt), optLen := BitVec.ofNat 32 opt, body := body }

/-- `STATUS` of a lookup or of a step that ends a deep parse: `ERR = 0` with `UnsupportedProtocol` when an
identifier was looked up and maps to no parser, `OK` otherwise (44_dispatch_deep R192, R205). -/
def lookupStatus (unmapped : Bool) (layer : Nat) : Status :=
  { err := false, code := if unmapped then .unsupportedProtocol else .ok, layer := BitVec.ofNat 8 layer }

end Sys2Proof.Machine
end

