-- ==== Sys2Proof/Machine/Checksum.lean ====
section
/-! DEFINITION. The checksum engine (41_checksum): the checksum functions, which the parsers call too, and the
commands `CSUM.IP4` and `CSUM.XPORT`. -/

namespace Sys2Proof.Machine

/-! ### The checksum function -/

/-- One round of "carries folded back in" (41_checksum R120). -/
def foldOnce (n : Nat) : Nat := n % 0x10000 + n / 0x10000

/-- `Fold16` with a bound on the rounds; a round that folds makes its number smaller, so `n` rounds are enough for
`n`. -/
def foldRounds : Nat → Nat → Nat
  | 0, n => n
  | rounds + 1, n => if n > 0xFFFF then foldRounds rounds (foldOnce n) else n

/-- `Fold16(s)` (41_checksum R120). -/
def fold16 (n : Nat) : Nat := foldRounds n n

/-- `OnesSum16(ws)`: the sum on unbounded naturals, then folded (41_checksum R120). -/
def onesSum16 (ws : List Half) : Nat := fold16 (ws.map BitVec.toNat).sum

/-- `Words(bs)`: big-endian 16-bit words counted from the first byte of the list; an odd last byte is padded with
a zero byte on the right (41_checksum R121). -/
def checksumWords : List Byte → List Half
  | [] => []
  | [b] => [b ++ (0 : Byte)]
  | b :: c :: rest => (b ++ c) :: checksumWords rest

/-- `InetCsum(ws) = 0xFFFF - OnesSum16(ws)` (41_checksum R122). -/
def inetCsum (ws : List Half) : Half := BitVec.ofNat 16 (0xFFFF - onesSum16 ws)

/-- `ZeroField(bs, p)` (41_checksum R123). -/
def zeroField (bs : List Byte) (p : Nat) : List Byte := (bs.set p 0).set (p + 1) 0

/-- `Stored(bs, p) = {bs[p], bs[p+1]}` (41_checksum R123). -/
def storedField (bs : List Byte) (p : Nat) : Half := bs.getD p 0 ++ bs.getD (p + 1) 0

/-- What a verification computes: the field it read and the checksum it computed. -/
structure Verdict where
  stored : Half
  computed : Half
deriving DecidableEq, Repr

/-- The verdict: exact 16-bit equality, no special case (41_checksum R128). -/
def Verdict.valid (v : Verdict) : Bool := decide (v.stored = v.computed)

/-- The position of the checksum field of an IPv4 header (41_checksum R124). -/
def ip4CsumPos : Nat := 10

/-- `VerifyIp4(off, n)`, for `n >= 12` (41_checksum R124). -/
def verifyIp4 (buf : Nat → Byte) (off n : Nat) : Verdict :=
  let bs := bytesFrom buf off n
  { stored := storedField bs ip4CsumPos, computed := inetCsum (checksumWords (zeroField bs ip4CsumPos)) }

/-- The 16-bit words of a 32-bit value, most significant first. -/
def halvesOf32 (v : Word) : List Half := [v.extractLsb' 16 16, v.extractLsb' 0 16]

/-- The 16-bit words of a 128-bit value, most significant first. -/
def halvesOf128 (v : BitVec 128) : List Half :=
  [v.extractLsb' 112 16, v.extractLsb' 96 16, v.extractLsb' 80 16, v.extractLsb' 64 16,
   v.extractLsb' 48 16, v.extractLsb' 32 16, v.extractLsb' 16 16, v.extractLsb' 0 16]

/-- `PhWords(ph)` (41_checksum R125). With `V4` the upper 96 bits of the addresses are ignored (10_state R28). -/
def phWords (ph : PseudoHeader) : List Half :=
  let tail := halvesOf32 ph.len ++ [ph.proto.setWidth 16]
  match ph.kind with
  | .none => []
  | .v4 => halvesOf32 (ph.src.extractLsb' 0 32) ++ halvesOf32 (ph.dst.extractLsb' 0 32) ++ tail
  | .v6 => halvesOf128 ph.src ++ halvesOf128 ph.dst ++ tail

/-- `VerifyXport(ph, off, n, p)`, for `n >= p + 2` (41_checksum R127). -/
def verifyXport (ph : PseudoHeader) (buf : Nat → Byte) (off n p : Nat) : Verdict :=
  let bs := bytesFrom buf off n
  { stored := storedField bs p, computed := inetCsum (phWords ph ++ checksumWords (zeroField bs p)) }

/-- The position `p` of a transport checksum field (41_checksum R127, R129). -/
def csumPos : Xport → Nat
  | .tcp => 16
  | .udp => 6
  | .icmp => 2

/-! ### The commands -/

/-- The result writes of both commands: `CSUM_RES`, `RVAL`, `STATUS <- OK` (41_checksum R126, R129). -/
def State.setVerdict (s : State) (v : Verdict) : State :=
  (s.setRes { s.res with rval := if v.valid then 1 else 0, computed := v.computed, stored := v.stored }).succeed

/-- The body both commands share once their operands are legal: the window check, the field inside the window,
then the verdict (41_checksum R126, R129). -/
def csumCommand (P : Params) (s : State) (p : Nat) (verify : Nat → Nat → Verdict) : State :=
  if ¬ s.windowOk P then s.fail .badWindow 0
  else if s.winLen < p + 2 then s.fail .unexpectedEof 0
  else s.setVerdict (verify s.winOff s.winLen)

/-- `CSUM.IP4` (41_checksum R126). -/
def csumIp4Cmd (P : Params) (s : State) : State := csumCommand P s ip4CsumPos (verifyIp4 s.byteAt)

/-- `CSUM.XPORT sel` (41_checksum R129). -/
def csumXportCmd (P : Params) (x : Xport) (s : State) : State :=
  match s.pseudoHeader with
  | none => s.fail .illegalCommand 0
  | some ph => csumCommand P s (csumPos x) (fun off n => verifyXport ph s.byteAt off n (csumPos x))

/-- The meaning of `CSUM.IP4`. -/
def execCsumIp4 (s : State) : Outcome := .next (csumIp4Cmd build s)

/-- The meaning of `CSUM.XPORT`. -/
def execCsumXport (x : Xport) (s : State) : Outcome := .next (csumXportCmd build x s)

end Sys2Proof.Machine
end

