-- ==== Sys2Proof/Machine/Cursor.lean ====
section
/-! DEFINITION. The byte-cursor commands `CUR.*` (40_cursor) on the architectural cursor. -/

namespace Sys2Proof.Machine

/-- The checks `CUR.RD*`, `CUR.RDB` and `CUR.PEEK` share, in the order of 40_cursor R108: the cursor slice, then the
bound `n <= CUR_LEN - CUR_POS`; then the command's own effect. -/
def cursorCommand (P : Params) (s : State) (n : Nat) (effect : State) : State :=
  if ¬ s.cursorOk P then s.fail .badWindow 0
  else if n > s.curRemaining then s.fail .unexpectedEof 0
  else effect

/-- `CUR_POS` moved on by `n`. -/
def State.bumpPos (s : State) (n : Nat) : State := s.setPos (BitVec.ofNat 32 (s.cur.pos.toNat + n))

/-- `CUR.RD8`, `CUR.RD16`, `CUR.RD32`: a `w`-bit big-endian value, zero-extended into `RVAL` (40_cursor R101 to
R103). -/
def curReadCmd (P : Params) (w : Nat) (s : State) : State :=
  cursorCommand P s (w / 8)
    (((s.setRval ((memRead s.byteAt w s.curAddr).setWidth 32)).bumpPos (w / 8)).succeed)

/-- The slice `(ROFF, RLEN)` of the next `OPN` bytes (40_cursor R104, R105). -/
def State.setNextSlice (s : State) : State := s.setSlice (BitVec.ofNat 32 s.curAddr) s.opr.opn

/-- `CUR.OPEN` (40_cursor R100). -/
def curOpenCmd (P : Params) (s : State) : State :=
  if ¬ s.windowOk P then s.fail .badWindow 0
  else (s.setCur { base := s.opr.winOff, len := s.opr.winLen, pos := 0 }).succeed

/-- `CUR.RDB` (40_cursor R104). -/
def curRdbCmd (P : Params) (s : State) : State :=
  cursorCommand P s s.count ((s.setNextSlice.bumpPos s.count).succeed)

/-- `CUR.PEEK` (40_cursor R105). -/
def curPeekCmd (P : Params) (s : State) : State := cursorCommand P s s.count s.setNextSlice.succeed

/-- `CUR.REM` (40_cursor R106). -/
def curRemCmd (s : State) : State := (s.setRval (BitVec.ofNat 32 s.curRemaining)).succeed

/-- `CUR.SKIP` (40_cursor R107): the bound only, no slice check (R108). -/
def curSkipCmd (s : State) : State :=
  if s.count > s.curRemaining then s.fail .unexpectedEof 0 else (s.bumpPos s.count).succeed

/-- The meaning of `CUR.OPEN`. -/
def execCurOpen (s : State) : Outcome := .next (curOpenCmd build s)

/-- The meaning of `CUR.RD8`. -/
def execCurRd8 (s : State) : Outcome := .next (curReadCmd build 8 s)

/-- The meaning of `CUR.RD16`. -/
def execCurRd16 (s : State) : Outcome := .next (curReadCmd build 16 s)

/-- The meaning of `CUR.RD32`. -/
def execCurRd32 (s : State) : Outcome := .next (curReadCmd build 32 s)

/-- The meaning of `CUR.RDB`. -/
def execCurRdb (s : State) : Outcome := .next (curRdbCmd build s)

/-- The meaning of `CUR.PEEK`. -/
def execCurPeek (s : State) : Outcome := .next (curPeekCmd build s)

/-- The meaning of `CUR.REM`. -/
def execCurRem (s : State) : Outcome := .next (curRemCmd s)

/-- The meaning of `CUR.SKIP`. -/
def execCurSkip (s : State) : Outcome := .next (curSkipCmd s)

end Sys2Proof.Machine
end

