-- ==== Sys2Proof/Machine/Parsers.lean ====
section
/-! DEFINITION. The parser functions (42_parsers_link_net, 43_parsers_transport): each takes a buffer, a window
`(off, L)` and its options, and answers a layer record or a failure code. The `PARSE.*` commands and the deep-parse
sequencer run the same functions. -/

namespace Sys2Proof.Machine

/-! ### Ethernet and 802.1Q -/

/-- What stands after the two MAC addresses: the EtherType, and where it equals `TPID` one tag and "the real
EtherType" (42_parsers_link_net R143). -/
structure EthType where
  tagged : Bool
  tci : Half
  etherType : Half
deriving DecidableEq, Repr

/-- The part of `ParseEth` that reads the EtherType and the optional tag (42_parsers_link_net R143). -/
def readEthType (P : Params) (buf : Nat → Byte) (c : LocalCursor) : Except Code (EthType × LocalCursor) := do
  let (et, c) ← c.rd buf 16
  if et = P.tpid then
    let (tci, c) ← c.rd buf 16
    let (inner, c) ← c.rd buf 16
    return ({ tagged := true, tci := tci, etherType := inner }, c)
  else
    return ({ tagged := false, tci := 0, etherType := et }, c)

/-- `ParseEth(off, L, fcs_en)` (42_parsers_link_net R143, R144). -/
def parseEth (P : Params) (buf : Nat → Byte) (off len : Nat) (fcsEn : Bool) : Except Code LayerRec :=
  if fcsEn = true ∧ len < P.ethMinFrame then .error .malformedPacket
  else do
    let c := LocalCursor.start off len
    let (dst, c) ← c.rd buf 48
    let (src, c) ← c.rd buf 48
    let (t, c) ← readEthType P buf c
    let hdr := c.pos
    if fcsEn then
      let fcs := memRead buf 32 (off + len - 4)
      let ok := P.fcsCheck (bytesFrom buf off (len - 4)) fcs
      return mkRec off hdr (len - 4 - hdr) (.etype t.etherType) 0
        { ckChecked := true, ckValid := ok, tagged := t.tagged }
        (.eth { dst := dst, src := src, etherType := t.etherType, tci := t.tci, fcs := fcs })
    else
      return mkRec off hdr (len - hdr) (.etype t.etherType) 0
        { tagged := t.tagged }
        (.eth { dst := dst, src := src, etherType := t.etherType, tci := t.tci, fcs := 0 })

/-- `ParseVlan(off, L)` (42_parsers_link_net R145). -/
def parseVlan (buf : Nat → Byte) (off len : Nat) : Except Code LayerRec := do
  let c := LocalCursor.start off len
  let (tci, c) ← c.rd buf 16
  let (et, _) ← c.rd buf 16
  return mkRec off 4 (len - 4) (.etype et) 0 {} (.vlan { tci := tci, etherType := et })

/-! ### IPv4 and IPv6 -/

/-- The reads of `ParseIp4` after its three tests: the fixed part from byte 1, then the options slice
(42_parsers_link_net R148). -/
def readIp4 (buf : Nat → Byte) (c : LocalCursor) (version ihl : BitVec 4) : Except Code Ip4Fields := do
  let (b1, c) ← c.rd buf 8
  let (total, c) ← c.rd buf 16
  let (ident, c) ← c.rd buf 16
  let (w, c) ← c.rd buf 16
  let (ttl, c) ← c.rd buf 8
  let (proto, c) ← c.rd buf 8
  let (cks, c) ← c.rd buf 16
  let (src, c) ← c.rd buf 32
  let (dst, c) ← c.rd buf 32
  let _ ← c.rdBytes (4 * ihl.toNat - 20)
  return { version := version, ihl := ihl, dscp := b1.extractLsb' 2 6, ecn := b1.extractLsb' 0 2,
           totalLength := total, ident := ident, flags := w.extractLsb' 13 3, fragOff := w.extractLsb' 0 13,
           ttl := ttl, protocol := proto, checksum := cks, src := src, dst := dst }

/-- `ParseIp4(off, L, strict)` (42_parsers_link_net R148, R149). -/
def parseIp4 (buf : Nat → Byte) (off len : Nat) (strict : Bool) : Except Code LayerRec := do
  let c := LocalCursor.start off len
  let (b0, c) ← c.rd buf 8
  let version := b0.extractLsb' 4 4
  let ihl := b0.extractLsb' 0 4
  if version ≠ 4 then .error .invalidVersion
  else if ihl.toNat < 5 then .error .headerTooShort
  else if 4 * ihl.toNat > len then .error .truncatedPacket
  else
    let f ← readIp4 buf c version ihl
    let ok := (verifyIp4 buf off (4 * ihl.toNat)).valid
    if strict = true ∧ ok = false then .error .checksumMismatch
    else
      return mkRec off (4 * ihl.toNat) (len - 4 * ihl.toNat) (.ipproto f.protocol) (4 * ihl.toNat - 20)
        { ckChecked := true, ckValid := ok } (.ip4 f)

/-- `ParseIp6(off, L)` (42_parsers_link_net R155, R157). -/
def parseIp6 (buf : Nat → Byte) (off len : Nat) : Except Code LayerRec := do
  let c := LocalCursor.start off len
  let _ ← c.peek 1
  let version := (memRead buf 8 off).extractLsb' 4 4
  if version ≠ 6 then .error .invalidVersion
  else
    let (w0, c) ← c.rd buf 32
    let (plen, c) ← c.rd buf 16
    let (nh, c) ← c.rd buf 8
    let (hop, c) ← c.rd buf 8
    let (src, c) ← c.rd buf 128
    let (dst, _) ← c.rd buf 128
    return mkRec off 40 (len - 40) (.ipproto nh) 0 {}
      (.ip6 { version := version, tclass := w0.extractLsb' 20 8, flow := w0.extractLsb' 0 20,
              payloadLength := plen, nextHeader := nh, hopLimit := hop, src := src, dst := dst })

/-! ### Transport -/

/-- The 20-byte base header of `ParseTcp` (43_parsers_transport R172). -/
def readTcp (buf : Nat → Byte) (c : LocalCursor) : Except Code (TcpFields × LocalCursor) := do
  let (sport, c) ← c.rd buf 16
  let (dport, c) ← c.rd buf 16
  let (seq, c) ← c.rd buf 32
  let (ack, c) ← c.rd buf 32
  let (w, c) ← c.rd buf 16
  let (win, c) ← c.rd buf 16
  let (cks, c) ← c.rd buf 16
  let (urg, c) ← c.rd buf 16
  return ({ sport := sport, dport := dport, seq := seq, ack := ack, doff := w.extractLsb' 12 4,
            flags := w.extractLsb' 0 12, window := win, checksum := cks, urgent := urg }, c)

/-- `ParseTcp(off, L, ph, strict)` (43_parsers_transport R172, R173). -/
def parseTcp (buf : Nat → Byte) (off len : Nat) (ph : PseudoHeader) (strict : Bool) : Except Code LayerRec := do
  let (f, c) ← readTcp buf (LocalCursor.start off len)
  let hdr := 4 * f.doff.toNat
  if f.doff.toNat < 5 then .error .headerTooShort
  else if hdr > len then .error .truncatedPacket
  else
    let _ ← c.rdBytes (hdr - 20)
    let ok := (verifyXport ph buf off len (csumPos .tcp)).valid
    if strict = true ∧ ok = false then .error .checksumMismatch
    else
      return mkRec off hdr (len - hdr) .none (hdr - 20) { ckChecked := true, ckValid := ok } (.tcp f)

/-- `ParseUdp(off, L, ph, strict)` (43_parsers_transport R177, R178). -/
def parseUdp (buf : Nat → Byte) (off len : Nat) (ph : PseudoHeader) (strict : Bool) : Except Code LayerRec := do
  let c := LocalCursor.start off len
  let (sport, c) ← c.rd buf 16
  let (dport, c) ← c.rd buf 16
  let (ulen, c) ← c.rd buf 16
  let (cks, _) ← c.rd buf 16
  let mismatch := decide (ulen.toNat ≠ len)
  if strict = true ∧ mismatch = true then .error .malformedPacket
  else
    let ok := (verifyXport ph buf off len (csumPos .udp)).valid
    if strict = true ∧ ok = false then .error .checksumMismatch
    else
      return mkRec off 8 (len - 8) .none 0 { ckChecked := true, ckValid := ok, lenMismatch := mismatch }
        (.udp { sport := sport, dport := dport, length := ulen, checksum := cks })

/-- `ParseIcmp(off, L, ph, strict)` (43_parsers_transport R182, R183). -/
def parseIcmp (buf : Nat → Byte) (off len : Nat) (ph : PseudoHeader) (strict : Bool) : Except Code LayerRec := do
  let c := LocalCursor.start off len
  let (type, c) ← c.rd buf 8
  let (code, c) ← c.rd buf 8
  let (cks, _) ← c.rd buf 16
  let ok := (verifyXport ph buf off len (csumPos .icmp)).valid
  if strict = true ∧ ok = false then .error .checksumMismatch
  else
    return mkRec off 4 (len - 4) .none 0 { ckChecked := true, ckValid := ok }
      (.icmp { type := type, code := code, checksum := cks })

end Sys2Proof.Machine
end

