-- ==== Sys2Proof/Machine/Deep.lean ====
section
/-! DEFINITION. The demultiplexer `DISP.*` and the deep-parse sequencer `DEEP.*` (44_dispatch_deep). -/

namespace Sys2Proof.Machine

/-! ### The dispatcher -/

/-- `Dispatch(ik, ind)` (44_dispatch_deep R190). -/
def dispatch (P : Params) : NextInd → Kind
  | .none => Kind.none
  | .etype v => P.etypeTable v
  | .ipproto v => P.ipprotoTable v

/-- The result of a dispatch command (44_dispatch_deep R192, R193): `NEXT` and a `STATUS` that is never an error. -/
def dispatchResult (s : State) (k : Kind) : State :=
  (s.setRes { s.res with next := k }).setStatus (lookupStatus (decide (k = Kind.none)) 0)

/-- `DISP.ETYPE` (44_dispatch_deep R192). -/
def dispEtypeCmd (P : Params) (s : State) : State := dispatchResult s (P.etypeTable s.pidEtype)

/-- `DISP.IPPROTO` (44_dispatch_deep R193). -/
def dispIpprotoCmd (P : Params) (s : State) : State := dispatchResult s (P.ipprotoTable s.pidIpproto)

/-! ### The parser a step runs -/

/-- `DeepPh(kind, k, L)` (44_dispatch_deep R204): the pseudo-header a deep parse supplies, built from the layer
just below, never from the `PH_*` registers. -/
def deepPh (layers : List LayerRec) (kind : Kind) (len : Nat) : PseudoHeader :=
  match layers.getLast? with
  | none => PseudoHeader.absent
  | some e =>
    match e.body with
    | .ip4 f =>
      if kind = Kind.icmp then PseudoHeader.absent
      else { kind := .v4, src := f.src.setWidth 128, dst := f.dst.setWidth 128, proto := f.protocol,
             len := BitVec.ofNat 32 len }
    | .ip6 f => { kind := .v6, src := f.src, dst := f.dst, proto := f.nextHeader, len := BitVec.ofNat 32 len }
    | .eth _ | .vlan _ | .tcp _ | .udp _ | .icmp _ => PseudoHeader.absent

/-- `RunParser(kind, off, L, k)` (44_dispatch_deep R202). `CFG` is read at each step (70_reset_and_hazards R267).
No parser is given for `NONE` (log 8). -/
def runParser (P : Params) (s : State) (kind : Kind) (off len : Nat) : Option (Except Code LayerRec) :=
  match kind with
  | .none => none
  | .eth => some (parseEth P s.byteAt off len s.opr.fcsEn)
  | .vlan => some (parseVlan s.byteAt off len)
  | .ip4 => some (parseIp4 s.byteAt off len s.opr.strict)
  | .ip6 => some (parseIp6 s.byteAt off len)
  | .tcp => some (parseTcp s.byteAt off len (deepPh s.layers .tcp len) s.opr.strict)
  | .udp => some (parseUdp s.byteAt off len (deepPh s.layers .udp len) s.opr.strict)
  | .icmp => some (parseIcmp s.byteAt off len (deepPh s.layers .icmp len) s.opr.strict)

/-! ### One `ParsingLayer(k)` transition -/

/-- A step that cannot decode layer `k`: `FAILED`, everything decoded so far kept (44_dispatch_deep R201,
60_exceptions R236). -/
def deepFail (s : State) (code : Code) : State :=
  (s.setDp { s.dp with state := .failed }).fail code s.nlayers

/-- The sequencer after layer `rec` was decoded (44_dispatch_deep R201): the payload slice becomes current; with a
known next parser the parse goes on, otherwise it terminates and the payload is the opaque one. -/
def sequencerAfter (P : Params) (d : Sequencer) (rec : LayerRec) : Sequencer :=
  let nxt := dispatch P rec.ind
  if nxt ≠ Kind.none then { d with next := nxt, off := rec.payOff, len := rec.payLen }
  else { state := .terminated, next := Kind.none, off := rec.payOff, len := rec.payLen,
         opqOff := rec.payOff, opqLen := rec.payLen }

/-- `STATUS` after layer `rec` was decoded (44_dispatch_deep R201, R205): `UnsupportedProtocol` when an indicator
was looked up and not found, `OK` otherwise; the new `NLAYERS`. -/
def statusAfter (P : Params) (rec : LayerRec) (n : Nat) : Status :=
  lookupStatus (decide (dispatch P rec.ind = Kind.none ∧ rec.ind ≠ NextInd.none)) n

/-- A step that decoded layer `rec`: it is appended (44_dispatch_deep R201). -/
def deepAppend (P : Params) (s : State) (rec : LayerRec) : State :=
  ((s.setLayers (s.layers ++ [rec])).setDp (sequencerAfter P s.dp rec)).setStatus
    (statusAfter P rec (s.nlayers + 1))

/-- The body of `DEEP.STEP`, from "let k = NLAYERS" (44_dispatch_deep R201, R203): the depth bound, then the
parser. No answer where `RunParser` has none. -/
def deepBody (P : Params) (s : State) : Option State :=
  if s.nlayers ≥ P.maxDepth then some (deepFail s .maxDepthExceeded)
  else
    match runParser P s s.dp.next s.dp.off.toNat s.dp.len.toNat with
    | none => none
    | some (.error code) => some (deepFail s code)
    | some (.ok rec) => some (deepAppend P s rec)

/-! ### The commands -/

/-- `DEEP.START kind` (44_dispatch_deep R200). `NONE` is a reserved selector (30_encoding R82). -/
def deepStartCmd (P : Params) (kind : Kind) (s : State) : State :=
  if kind = Kind.none then s.fail .illegalCommand 0
  else if ¬ s.windowOk P then s.fail .badWindow 0
  else
    ((s.setLayers []).setDp
      { state := .parsing, next := kind, off := s.opr.winOff, len := s.opr.winLen, opqOff := 0, opqLen := 0 }).succeed

/-- The checks `DEEP.STEP` and `DEEP.RUN` share (44_dispatch_deep R201, R207, 60_exceptions R237): `BadState`, then
`BadWindow`, then the command's own work. -/
def deepCommand (P : Params) (s : State) (work : Option State) : Option State :=
  if s.dp.state ≠ .parsing then some (s.fail .badState 0)
  else if ¬ s.deepOk P then some (s.fail .badWindow 0)
  else work

/-- `DEEP.STEP` (44_dispatch_deep R201). -/
def deepStepCmd (P : Params) (s : State) : Option State := deepCommand P s (deepBody P s)

/-- "while DP_STATE = PARSING: perform the body" (44_dispatch_deep R207), for at most a number of rounds. -/
def deepLoop (P : Params) : Nat → State → Option State
  | 0, s => some s
  | rounds + 1, s =>
    if s.dp.state = .parsing then
      match deepBody P s with
      | none => none
      | some t => deepLoop P rounds t
    else some s

/-- `DEEP.RUN` (44_dispatch_deep R207): at most `MAX_DEPTH + 1` steps (log 18). -/
def deepRunCmd (P : Params) (s : State) : Option State := deepCommand P s (deepLoop P (P.maxDepth + 1) s)

/-- A step for which the spec gives no parser stops by name (log 8). -/
def deepOutcome : Option State → Outcome
  | some t => .next t
  | none => .fault .noParserSelected

/-- The meaning of `DISP.ETYPE`. -/
def execDispEtype (s : State) : Outcome := .next (dispEtypeCmd build s)

/-- The meaning of `DISP.IPPROTO`. -/
def execDispIpproto (s : State) : Outcome := .next (dispIpprotoCmd build s)

/-- The meaning of `DEEP.START`. -/
def execDeepStart (kind : Kind) (s : State) : Outcome := .next (deepStartCmd build kind s)

/-- The meaning of `DEEP.STEP`. -/
def execDeepStep (s : State) : Outcome := deepOutcome (deepStepCmd build s)

/-- The meaning of `DEEP.RUN`. -/
def execDeepRun (s : State) : Outcome := deepOutcome (deepRunCmd build s)

end Sys2Proof.Machine
end

