-- ==== Sys2Proof/Machine/Parse.lean ====
section
/-! DEFINITION. The shallow-parse commands `PARSE.*` (42_parsers_link_net, 43_parsers_transport). -/

namespace Sys2Proof.Machine

/-- Where a shallow parse puts its result (42_parsers_link_net R140): on success exactly slot 0 is valid; on a
parser's failure no slot is; either way a deep parse in progress is abandoned. -/
def shallowResult (s : State) (r : Except Code LayerRec) : State :=
  let idle := s.setDp { s.dp with state := .idle }
  match r with
  | .ok rec => (idle.setLayers [rec]).succeed
  | .error code => (idle.setLayers []).fail code 0

/-- A shallow parse that reads no pseudo-header: the window check, then the parser (42_parsers_link_net R140). -/
def parseCommand (P : Params) (s : State) (parser : Nat → Nat → Except Code LayerRec) : State :=
  if ¬ s.windowOk P then s.fail .badWindow 0 else shallowResult s (parser s.winOff s.winLen)

/-- A shallow parse that reads the pseudo-header: `PH_KIND = 3` comes before the window check
(42_parsers_link_net R140, 60_exceptions R237). -/
def transportCommand (P : Params) (s : State) (parser : PseudoHeader → Nat → Nat → Except Code LayerRec) : State :=
  match s.pseudoHeader with
  | none => s.fail .illegalCommand 0
  | some ph => parseCommand P s (parser ph)

/-- `PARSE.ETH` (42_parsers_link_net R142). -/
def parseEthCmd (P : Params) (s : State) : State :=
  parseCommand P s (fun off len => parseEth P s.byteAt off len s.opr.fcsEn)

/-- `PARSE.VLAN` (42_parsers_link_net R146). -/
def parseVlanCmd (P : Params) (s : State) : State := parseCommand P s (parseVlan s.byteAt)

/-- `PARSE.IP4` (42_parsers_link_net R150). -/
def parseIp4Cmd (P : Params) (s : State) : State :=
  parseCommand P s (fun off len => parseIp4 s.byteAt off len s.opr.strict)

/-- `PARSE.IP6` (42_parsers_link_net R156). -/
def parseIp6Cmd (P : Params) (s : State) : State := parseCommand P s (parseIp6 s.byteAt)

/-- `PARSE.TCP` (43_parsers_transport R171). -/
def parseTcpCmd (P : Params) (s : State) : State :=
  transportCommand P s (fun ph off len => parseTcp s.byteAt off len ph s.opr.strict)

/-- `PARSE.UDP` (43_parsers_transport R176). -/
def parseUdpCmd (P : Params) (s : State) : State :=
  transportCommand P s (fun ph off len => parseUdp s.byteAt off len ph s.opr.strict)

/-- `PARSE.ICMP` (43_parsers_transport R181). -/
def parseIcmpCmd (P : Params) (s : State) : State :=
  transportCommand P s (fun ph off len => parseIcmp s.byteAt off len ph s.opr.strict)

/-- The meaning of `PARSE.ETH`. -/
def execParseEth (s : State) : Outcome := .next (parseEthCmd build s)

/-- The meaning of `PARSE.VLAN`. -/
def execParseVlan (s : State) : Outcome := .next (parseVlanCmd build s)

/-- The meaning of `PARSE.IP4`. -/
def execParseIp4 (s : State) : Outcome := .next (parseIp4Cmd build s)

/-- The meaning of `PARSE.IP6`. -/
def execParseIp6 (s : State) : Outcome := .next (parseIp6Cmd build s)

/-- The meaning of `PARSE.TCP`. -/
def execParseTcp (s : State) : Outcome := .next (parseTcpCmd build s)

/-- The meaning of `PARSE.UDP`. -/
def execParseUdp (s : State) : Outcome := .next (parseUdpCmd build s)

/-- The meaning of `PARSE.ICMP`. -/
def execParseIcmp (s : State) : Outcome := .next (parseIcmpCmd build s)

end Sys2Proof.Machine
end

