-- ==== Sys2Proof/Machine/System.lean ====
section
/-! DEFINITION. The system commands `NOP` and `CLEAR` (45_system), and what an illegal word does. -/

namespace Sys2Proof.Machine

/-- `NOP` (45_system R220). -/
def nopCmd (s : State) : State := s.succeed

/-- `CLEAR` (45_system R222): every engine-written register in its reset state, no valid slot; the host-written
registers and `BUF` as they are. -/
def clearCmd (s : State) : State :=
  ((((s.setCur CursorRegs.reset).setDp Sequencer.reset).setLayers []).setRes Results.reset).succeed

/-- An illegal command word (30_encoding R83): `IllegalCommand`, and no other state changes. -/
def illegalWord (s : State) : State := s.fail .illegalCommand 0

/-- The meaning of `NOP`. -/
def execNop (s : State) : Outcome := .next (nopCmd s)

/-- The meaning of `CLEAR`. -/
def execClear (s : State) : Outcome := .next (clearCmd s)

end Sys2Proof.Machine
end

