-- ==== Sys2Proof/Machine/Dispatch.lean ====
section
/-! DEFINITION. The dispatch of a decoded command to its meaning: one arm per constructor. -/

namespace Sys2Proof.Machine

def exec (i : Instr) (s : State) : Host.Outcome State Fault Refusal :=
  match i with
  | .nop => Sys2Proof.Machine.execNop s
  | .curOpen => Sys2Proof.Machine.execCurOpen s
  | .curRd8 => Sys2Proof.Machine.execCurRd8 s
  | .curRd16 => Sys2Proof.Machine.execCurRd16 s
  | .curRd32 => Sys2Proof.Machine.execCurRd32 s
  | .curRdb => Sys2Proof.Machine.execCurRdb s
  | .curPeek => Sys2Proof.Machine.execCurPeek s
  | .curRem => Sys2Proof.Machine.execCurRem s
  | .curSkip => Sys2Proof.Machine.execCurSkip s
  | .csumIp4 => Sys2Proof.Machine.execCsumIp4 s
  | .csumXport x => Sys2Proof.Machine.execCsumXport x s
  | .parseEth => Sys2Proof.Machine.execParseEth s
  | .parseVlan => Sys2Proof.Machine.execParseVlan s
  | .parseIp4 => Sys2Proof.Machine.execParseIp4 s
  | .parseIp6 => Sys2Proof.Machine.execParseIp6 s
  | .parseTcp => Sys2Proof.Machine.execParseTcp s
  | .parseUdp => Sys2Proof.Machine.execParseUdp s
  | .parseIcmp => Sys2Proof.Machine.execParseIcmp s
  | .dispEtype => Sys2Proof.Machine.execDispEtype s
  | .dispIpproto => Sys2Proof.Machine.execDispIpproto s
  | .deepStart k => Sys2Proof.Machine.execDeepStart k s
  | .deepStep => Sys2Proof.Machine.execDeepStep s
  | .deepRun => Sys2Proof.Machine.execDeepRun s
  | .clear => Sys2Proof.Machine.execClear s

end Sys2Proof.Machine
end

