-- ==== Sys2Proof/Machine/HostBus.lean ====
section
/-! DEFINITION. The host side (20_memory R60 to R70, 10_state R22 to R40): the address map, host reads and writes of
registers, layer file and buffer, `HostLoad`, and the platform's reset. A write to `CMD` is a command and is run by
`step`. -/

namespace Sys2Proof.Machine

/-! ### Access sizes and lanes -/

/-- The number of bytes of an access. -/
def AccessSize.bytes : AccessSize → Nat
  | .byte1 => 1
  | .byte2 => 2
  | .byte4 => 4

/-- The value of a byte list on the bus, first byte in bits `[7:0]`: little-endian lanes (20_memory R64). -/
def leValue (bs : List Byte) : Nat := bs.foldr (fun b acc => b.toNat + 256 * acc) 0

/-- The byte list a bus word carries in its lowest `n` lanes (20_memory R64). -/
def laneBytes (d : Word) : Nat → List Byte
  | 0 => []
  | n + 1 => d.extractLsb' 0 8 :: laneBytes (d >>> 8) n

/-! ### The address map (20_memory R68) -/

/-- Where the layer file begins. -/
def layerBase : Nat := 0x1000

/-- The bytes of one layer slot in the host space: 32 words. -/
def slotBytes : Nat := 0x80

/-- Where the buffer window begins. -/
def bufBase : Nat := 0x10000

/-- A host address, by the part of the map it falls in. -/
inductive Region
  /-- the register block `0x00000 .. 0x00FFF` -/
  | register (a : Nat)
  /-- word `w` of slot `i` of the layer file, `i < LAYER_SLOTS` -/
  | layer (i w : Nat)
  /-- byte `a` of the buffer window and what follows it -/
  | buffer (a : Nat)
  /-- reserved: reads 0, ignores writes -/
  | reserved
deriving DecidableEq, Repr

/-- The region of an address (20_memory R68). -/
def regionOf (P : Params) (addr : BitVec 17) : Region :=
  let a := addr.toNat
  if a < layerBase then .register a
  else if a < bufBase then
    let i := (a - layerBase) / slotBytes
    if i < P.maxDepth then .layer i ((a - layerBase) % slotBytes / 4) else .reserved
  else .buffer (a - bufBase)

/-- Whether an access of this size may reach this address at all: registers and layer file take aligned 32-bit
accesses only (20_memory R66); `BUF` takes naturally aligned ones that stay inside it (20_memory R64, R66, log 10). -/
def accessReaches (P : Params) (size : AccessSize) (addr : BitVec 17) : Bool :=
  match regionOf P addr with
  | .register _ => decide (size = AccessSize.byte4 ∧ addr.toNat % 4 = 0)
  | .layer _ _ => decide (size = AccessSize.byte4 ∧ addr.toNat % 4 = 0)
  | .buffer a => decide (addr.toNat % size.bytes = 0 ∧ a + size.bytes ≤ P.bufSize)
  | .reserved => false

/-! ### Registers -/

/-- What a host read of the register block returns (10_state R22 to R39); `CMD` reads 0, reserved addresses 0. -/
def readRegister (P : Params) (s : State) (a : Nat) : Word :=
  match a with
  | 0x004 => s.status.word
  | 0x008 => s.opr.cfgWord
  | 0x00C => s.opr.bufLen
  | 0x010 => s.opr.winOff
  | 0x014 => s.opr.winLen
  | 0x018 => s.opr.opn
  | 0x01C => s.opr.pidWord
  | 0x020 => s.opr.phCtlWord
  | 0x024 => s.opr.phLen
  | 0x028 => s.opr.phSrc0
  | 0x02C => s.opr.phSrc1
  | 0x030 => s.opr.phSrc2
  | 0x034 => s.opr.phSrc3
  | 0x038 => s.opr.phDst0
  | 0x03C => s.opr.phDst1
  | 0x040 => s.opr.phDst2
  | 0x044 => s.opr.phDst3
  | 0x048 => s.res.rval
  | 0x04C => s.res.roff
  | 0x050 => s.res.rlen
  | 0x054 => s.res.csumWord
  | 0x058 => s.cur.base
  | 0x05C => s.cur.len
  | 0x060 => s.cur.pos
  | 0x064 => s.res.nextWord
  | 0x068 => s.dp.ctlWord
  | 0x06C => s.dp.off
  | 0x070 => s.dp.len
  | 0x074 => (BitVec.ofNat 8 s.nlayers).setWidth 32
  | 0x078 => s.dp.opqOff
  | 0x07C => s.dp.opqLen
  | 0x080 => idWord
  | 0x084 => paramsWord P
  | _ => 0

/-- What a host write of the register block does to the operand registers (10_state R23); every other register
ignores host writes (10_state R22), and so do zero fields. -/
def writeOperand (o : Operands) (a : Nat) (d : Word) : Operands :=
  match a with
  | 0x008 => { o with fcsEn := d.getLsbD 0, strict := d.getLsbD 1 }
  | 0x00C => { o with bufLen := d }
  | 0x010 => { o with winOff := d }
  | 0x014 => { o with winLen := d }
  | 0x018 => { o with opn := d }
  | 0x01C => { o with pid := d.extractLsb' 0 16 }
  | 0x020 => { o with phKind := d.extractLsb' 0 2, phProto := d.extractLsb' 8 8 }
  | 0x024 => { o with phLen := d }
  | 0x028 => { o with phSrc0 := d }
  | 0x02C => { o with phSrc1 := d }
  | 0x030 => { o with phSrc2 := d }
  | 0x034 => { o with phSrc3 := d }
  | 0x038 => { o with phDst0 := d }
  | 0x03C => { o with phDst1 := d }
  | 0x040 => { o with phDst2 := d }
  | 0x044 => { o with phDst3 := d }
  | _ => o

/-! ### The host's accesses -/

/-- What a host read of a slot of the layer file returns: a word of a valid slot; for an invalid slot no defined
value (10_state R42), a fresh free value (log 4). -/
def readSlot (s : State) (i w : Nat) : Word :=
  match s.layers[i]? with
  | some r => r.word w
  | none => Config.slotWord s.reads

/-- The data a host read returns (20_memory R64, R66, R68). -/
def readValue (P : Params) (s : State) (size : AccessSize) (addr : BitVec 17) : Word :=
  if accessReaches P size addr then
    match regionOf P addr with
    | .register a => readRegister P s a
    | .layer i w => readSlot s i w
    | .buffer a => BitVec.ofNat 32 (leValue (bytesFrom s.byteAt a size.bytes))
    | .reserved => 0
  else 0

/-- A host read: no side effect on the block (10_state R22). -/
def hostRead (P : Params) (s : State) (size : AccessSize) (addr : BitVec 17) : State :=
  s.setReadData (readValue P s size addr)

/-- A host write that is no command (20_memory R62, R64, R66, R68). -/
def hostWrite (P : Params) (s : State) (size : AccessSize) (addr : BitVec 17) (d : Word) : State :=
  if accessReaches P size addr then
    match regionOf P addr with
    | .register a => s.setOpr (writeOperand s.opr a d)
    | .layer _ _ => s
    | .buffer a => s.setMem (Memory.putBytes s.mem a (laneBytes d size.bytes))
    | .reserved => s
  else s

/-- `HostLoad(off, bytes)`, allowed when `off + len(bytes) <= BUF_SIZE` (20_memory R62); otherwise no answer
(log 9). -/
def hostLoad (P : Params) (s : State) (off : Nat) (bytes : List Byte) : Option State :=
  if off + bytes.length ≤ P.bufSize then some (s.setMem (Memory.putBytes s.mem off bytes)) else none

/-- The platform's reset (70_reset_and_hazards R260 to R262): the block as after power-on, the bytes of `BUF`
unspecified afresh (log 3); what belongs to the host stays (log 15). -/
def platformReset (s : State) : State :=
  { State.reset with
    hostOps := s.hostOps, readData := s.readData, reads := s.reads, resets := s.resets + 1 }

/-- The command word of a host operation: a full aligned 32-bit write to `CMD`, host address 0 (10_state R30,
20_memory R66). -/
def HostOp.command : HostOp → Option Word
  | .write .byte4 addr data => if addr = 0 then some data else none
  | .write .byte1 _ _ => none
  | .write .byte2 _ _ => none
  | .read _ _ => none
  | .load _ _ => none
  | .reset => none

/-- A host operation that is no command. -/
def hostAccess (P : Params) (op : HostOp) (s : State) : Outcome :=
  match op with
  | .read size addr => .next (hostRead P s size addr)
  | .write size addr data => .next (hostWrite P s size addr data)
  | .load off bytes =>
    match hostLoad P s off bytes with
    | some t => .next t
    | none => .fault .loadOutsideBuffer
  | .reset => .next (platformReset s)

end Sys2Proof.Machine
end

