-- ==== Sys2Proof/Machine/Step.lean ====
section
/-! DEFINITION. One step: the host's next operation (00_scope R10). NSB fetches no instructions (00_scope R2); the
place a command word comes from is the host's write to `CMD` (20_memory R73). -/

namespace Sys2Proof.Machine

/-- The command the host wrote to `CMD` (10_state R30): decoded and run; an illegal word fails (30_encoding R83). -/
def runCommand (w : Word) (s : State) : Host.Outcome State Fault Refusal :=
  match decode w with
  | .cmd i => exec i s
  | .illegal _ => .next (illegalWord s)

/-- One step: the first operation of the host's queue, taken from it and performed. With nothing to do the engine is
idle and waits (70_reset_and_hazards R260). -/
def step (s : State) : Host.Outcome State Fault Refusal :=
  match s.hostOps with
  | [] => .next s
  | op :: rest =>
    match op.command with
    | some w => runCommand w (s.setHostOps rest)
    | none => hostAccess build op (s.setHostOps rest)

/-- `s` with the host about to write a command word to `CMD`: the instruction whose bits are `w`, of which the bits
above `nbits` are 0 (log 1). -/
def State.withFetchWord (s : State) (nbits w : Nat) : State :=
  s.setHostOps (HostOp.write AccessSize.byte4 0 (BitVec.ofNat 32 (w % 2 ^ nbits)) :: s.hostOps)

end Sys2Proof.Machine
end

