-- ==== Sys2Proof/Machine/Script.lean ====
section
/-! DEFINITION. Host scripts (30_encoding R86, R87): the lines and the pseudo-instructions as lists of host
operations, in the order the spec expands them. -/

namespace Sys2Proof.Machine

/-- `LOAD off, hh hh ...` (30_encoding R86). -/
def scriptLoad (off : Nat) (bytes : List Byte) : HostOp := .load off bytes

/-- `WR reg, value`, the register given by its address (30_encoding R86). -/
def scriptWr (reg : BitVec 17) (value : Word) : HostOp := .write .byte4 reg value

/-- `RD reg` (30_encoding R86). -/
def scriptRd (reg : BitVec 17) : HostOp := .read .byte4 reg

/-- `WR CFG.FCS_EN, b`: the field is written, the register's other field kept (30_encoding R86). -/
def scriptWrFcsEn (s : State) (b : Bool) : HostOp := scriptWr 0x008 { s.opr with fcsEn := b }.cfgWord

/-- `WR CFG.STRICT, b`: the field is written, the register's other field kept (30_encoding R86). -/
def scriptWrStrict (s : State) (b : Bool) : HostOp := scriptWr 0x008 { s.opr with strict := b }.cfgWord

/-- `MNEMONIC` or `MNEMONIC sel`: the command word written to `CMD` (30_encoding R86). -/
def scriptCmd (i : Instr) : HostOp := scriptWr 0x000 (encode i)

/-- `WIN off, len` (30_encoding R87). -/
def scriptWin (off len : Word) : List HostOp := [scriptWr 0x010 off, scriptWr 0x014 len]

/-- `FRAME hh hh ...` (30_encoding R87). -/
def scriptFrame (bytes : List Byte) : List HostOp :=
  scriptLoad 0 bytes :: scriptWr 0x00C (BitVec.ofNat 32 bytes.length) :: scriptWin 0 (BitVec.ofNat 32 bytes.length)

/-- `PHNONE` (30_encoding R87). -/
def scriptPhNone : List HostOp := [scriptWr 0x020 0]

/-- `PH_CTL` of a pseudo-header kind and protocol: `(proto << 8) | kind` (30_encoding R87). -/
def scriptPhCtl (kind : Word) (proto : Byte) : Word := (proto.setWidth 32 <<< 8) ||| kind

/-- `PH4 src, dst, proto, len` (30_encoding R87). -/
def scriptPh4 (src dst : Word) (proto : Byte) (len : Word) : List HostOp :=
  [scriptWr 0x020 (scriptPhCtl 1 proto), scriptWr 0x024 len, scriptWr 0x034 src, scriptWr 0x044 dst]

/-- `PH6 s0, s1, s2, s3, d0, d1, d2, d3, proto, len` (30_encoding R87). -/
def scriptPh6 (s0 s1 s2 s3 d0 d1 d2 d3 : Word) (proto : Byte) (len : Word) : List HostOp :=
  [scriptWr 0x020 (scriptPhCtl 2 proto), scriptWr 0x024 len,
   scriptWr 0x028 s0, scriptWr 0x02C s1, scriptWr 0x030 s2, scriptWr 0x034 s3,
   scriptWr 0x038 d0, scriptWr 0x03C d1, scriptWr 0x040 d2, scriptWr 0x044 d3]

/-- `DEEP.PARSE kind` (30_encoding R87). -/
def scriptDeepParse (kind : Kind) : List HostOp := [scriptCmd (.deepStart kind), scriptCmd .deepRun]

/-- `VERIFY.IP4 off, len` (30_encoding R87). -/
def scriptVerifyIp4 (off len : Word) : List HostOp := scriptWin off len ++ [scriptCmd .csumIp4]

/-- The machine after a script: the script is the host's queue, and each operation is one step (20_memory R70). -/
def runScript (s : State) (ops : List HostOp) : Host.Outcome State Fault Refusal :=
  match ops with
  | [] => .next s
  | op :: rest =>
    match step (s.setHostOps [op]) with
    | .next t => runScript t rest
    | .fault f => .fault f
    | .refused r => .refused r

end Sys2Proof.Machine
end

