-- ==== Sys2Proof/Safety.lean ====
section
/-! DEFINITION. The terms claims are stated in: big-endian fields of the buffer, the states a command may leave, the
registers each family may write, and the invariant of a run. -/

namespace Sys2Proof

open Machine

/-! ### Families of commands -/

/-- The `PARSE.*` command of a kind (30_encoding R81); none for `NONE`. -/
def Kind.parseCommand : Kind → Option Instr
  | .none => Option.none
  | .eth => some .parseEth
  | .vlan => some .parseVlan
  | .ip4 => some .parseIp4
  | .ip6 => some .parseIp6
  | .tcp => some .parseTcp
  | .udp => some .parseUdp
  | .icmp => some .parseIcmp

/-- The parser codes a deep parse can end in (60_exceptions R232). -/
def parserCodes : List Code :=
  [.unexpectedEof, .truncatedPacket, .invalidVersion, .headerTooShort, .malformedPacket, .checksumMismatch]

/-- The codes a command can end in besides `OK` and `IllegalCommand` (60_exceptions R232). -/
def Instr.codes : Instr → List Code
  | .nop | .clear | .curRem => []
  | .curOpen | .deepStart _ => [.badWindow]
  | .curRd8 | .curRd16 | .curRd32 | .curRdb | .curPeek => [.badWindow, .unexpectedEof]
  | .curSkip => [.unexpectedEof]
  | .csumIp4 | .csumXport _ => [.badWindow, .unexpectedEof]
  | .parseEth => [.badWindow, .malformedPacket, .unexpectedEof]
  | .parseVlan => [.badWindow, .unexpectedEof]
  | .parseIp4 =>
    [.badWindow, .unexpectedEof, .invalidVersion, .headerTooShort, .truncatedPacket, .checksumMismatch]
  | .parseIp6 => [.badWindow, .unexpectedEof, .invalidVersion]
  | .parseTcp => [.badWindow, .unexpectedEof, .headerTooShort, .truncatedPacket, .checksumMismatch]
  | .parseUdp => [.badWindow, .unexpectedEof, .malformedPacket, .checksumMismatch]
  | .parseIcmp => [.badWindow, .unexpectedEof, .checksumMismatch]
  | .dispEtype | .dispIpproto => [.unsupportedProtocol]
  | .deepStep | .deepRun => [.badState, .badWindow, .maxDepthExceeded, .unsupportedProtocol] ++ parserCodes

/-- The commands that read the pseudo-header registers (10_state R27). -/
def Instr.readsPseudoHeader : Instr → Bool
  | .csumXport _ | .parseTcp | .parseUdp | .parseIcmp => true
  | .nop | .curOpen | .curRd8 | .curRd16 | .curRd32 | .curRdb | .curPeek | .curRem | .curSkip | .csumIp4
  | .parseEth | .parseVlan | .parseIp4 | .parseIp6 | .dispEtype | .dispIpproto | .deepStart _ | .deepStep
  | .deepRun | .clear => false

/-! ### Which command may write which registers (10_state R32 to R41) -/

/-- The commands that may write the architectural cursor (10_state R35). -/
def Instr.writesCursor : Instr → Bool
  | .curOpen | .curRd8 | .curRd16 | .curRd32 | .curRdb | .curSkip | .clear => true
  | .nop | .curPeek | .curRem | .csumIp4 | .csumXport _ | .parseEth | .parseVlan | .parseIp4 | .parseIp6
  | .parseTcp | .parseUdp | .parseIcmp | .dispEtype | .dispIpproto | .deepStart _ | .deepStep | .deepRun => false

/-- The commands that may write `RVAL` (10_state R32). -/
def Instr.writesRval : Instr → Bool
  | .curRd8 | .curRd16 | .curRd32 | .curRem | .csumIp4 | .csumXport _ | .clear => true
  | .nop | .curOpen | .curRdb | .curPeek | .curSkip | .parseEth | .parseVlan | .parseIp4 | .parseIp6
  | .parseTcp | .parseUdp | .parseIcmp | .dispEtype | .dispIpproto | .deepStart _ | .deepStep | .deepRun => false

/-- The commands that may write `ROFF` and `RLEN` (10_state R32). -/
def Instr.writesSlice : Instr → Bool
  | .curRdb | .curPeek | .clear => true
  | .nop | .curOpen | .curRd8 | .curRd16 | .curRd32 | .curRem | .curSkip | .csumIp4 | .csumXport _ | .parseEth
  | .parseVlan | .parseIp4 | .parseIp6 | .parseTcp | .parseUdp | .parseIcmp | .dispEtype | .dispIpproto
  | .deepStart _ | .deepStep | .deepRun => false

/-- The commands that may write `CSUM_RES` (10_state R33). -/
def Instr.writesCsum : Instr → Bool
  | .csumIp4 | .csumXport _ | .clear => true
  | .nop | .curOpen | .curRd8 | .curRd16 | .curRd32 | .curRdb | .curPeek | .curRem | .curSkip | .parseEth
  | .parseVlan | .parseIp4 | .parseIp6 | .parseTcp | .parseUdp | .parseIcmp | .dispEtype | .dispIpproto
  | .deepStart _ | .deepStep | .deepRun => false

/-- The commands that may write `NEXT` (10_state R34). -/
def Instr.writesNext : Instr → Bool
  | .dispEtype | .dispIpproto | .clear => true
  | .nop | .curOpen | .curRd8 | .curRd16 | .curRd32 | .curRdb | .curPeek | .curRem | .curSkip | .csumIp4
  | .csumXport _ | .parseEth | .parseVlan | .parseIp4 | .parseIp6 | .parseTcp | .parseUdp | .parseIcmp
  | .deepStart _ | .deepStep | .deepRun => false

/-- The commands that may write the layer file, `NLAYERS` and `DP_STATE` (10_state R41, 42_parsers_link_net R140). -/
def Instr.writesLayers : Instr → Bool
  | .parseEth | .parseVlan | .parseIp4 | .parseIp6 | .parseTcp | .parseUdp | .parseIcmp | .deepStart _ | .deepStep
  | .deepRun | .clear => true
  | .nop | .curOpen | .curRd8 | .curRd16 | .curRd32 | .curRdb | .curPeek | .curRem | .curSkip | .csumIp4
  | .csumXport _ | .dispEtype | .dispIpproto => false

/-- The commands that may write `DP_NEXT`, `DP_OFF`, `DP_LEN`, `OPQ_OFF`, `OPQ_LEN` (10_state R36, R38). -/
def Instr.writesSlices : Instr → Bool
  | .deepStart _ | .deepStep | .deepRun | .clear => true
  | .nop | .curOpen | .curRd8 | .curRd16 | .curRd32 | .curRdb | .curPeek | .curRem | .curSkip | .csumIp4
  | .csumXport _ | .parseEth | .parseVlan | .parseIp4 | .parseIp6 | .parseTcp | .parseUdp | .parseIcmp
  | .dispEtype | .dispIpproto => false

end Sys2Proof

namespace Sys2Proof.Machine

/-! ### Fields of the buffer, most significant byte at the lowest address (20_memory R63) -/

/-- `{BUF[a], BUF[a+1]}` -/
def State.be16 (s : State) (a : Nat) : Half := s.byteAt a ++ s.byteAt (a + 1)

/-- `{BUF[a], .., BUF[a+3]}` -/
def State.be32 (s : State) (a : Nat) : Word := s.be16 a ++ s.be16 (a + 2)

/-- `{BUF[a], .., BUF[a+5]}` -/
def State.be48 (s : State) (a : Nat) : BitVec 48 := s.be16 a ++ s.be32 (a + 2)

/-- `{BUF[a], .., BUF[a+15]}` -/
def State.be128 (s : State) (a : Nat) : BitVec 128 :=
  s.be32 a ++ s.be32 (a + 4) ++ s.be32 (a + 8) ++ s.be32 (a + 12)

/-- Whether the checksum a header stores at `off + p` is the one computed over the `n` bytes from `off` and the
words of `ph` (41_checksum R124, R127). -/
def State.checksumHolds (s : State) (ph : PseudoHeader) (off n p : Nat) : Bool :=
  decide (s.be16 (off + p) = inetCsum (phWords ph ++ checksumWords (zeroField (bytesFrom s.byteAt off n) p)))

/-! ### The states a command may leave -/

/-- The state after a failure that changes nothing but `STATUS` (60_exceptions R235, R236). -/
def State.onlyStatus (s : State) (code : Code) : State := { s with status := { err := true, code := code, layer := 0 } }

/-- The state after a shallow parse whose parser failed (42_parsers_link_net R140). -/
def State.parseFailed (s : State) (code : Code) : State :=
  { s with layers := [], dp := { s.dp with state := .idle }, status := { err := true, code := code, layer := 0 } }

/-- The state after a shallow parse that decoded a layer (42_parsers_link_net R140). -/
def State.parseDone (s : State) (rec : LayerRec) : State :=
  { s with layers := [rec], dp := { s.dp with state := .idle }, status := Status.okay }

/-- The state after a deep-parse step that failed at layer `NLAYERS` (44_dispatch_deep R201). -/
def State.deepFailed (s : State) (code : Code) : State :=
  { s with dp := { s.dp with state := .failed },
           status := { err := true, code := code, layer := BitVec.ofNat 8 s.layers.length } }

/-- `n` deep-parse steps, one after the other (44_dispatch_deep R207). -/
def deepSteps : Nat → State → Host.Outcome State Fault Refusal
  | 0, s => .next s
  | n + 1, s =>
    match exec .deepStep s with
    | .next t => deepSteps n t
    | .fault f => .fault f
    | .refused r => .refused r

/-! ### What each parser decodes (42_parsers_link_net R143 to R155, 43_parsers_transport R172 to R182), field by field

Each record is the one the spec's parser builds for the window `(off, len)` once none of its tests fails. -/

/-- `HDR_LEN` of an Ethernet frame: 18 when the EtherType at bytes 12 and 13 is `TPID`, else 14. -/
def State.ethHeader (s : State) (P : Params) (off : Nat) : Nat := if s.be16 (off + 12) = P.tpid then 18 else 14

/-- The record of `ParseEth(off, len, CFG.FCS_EN)` (42_parsers_link_net R143, 10_state R46). -/
def State.ethRecord (s : State) (P : Params) (off len : Nat) : LayerRec :=
  let tagged := decide (s.be16 (off + 12) = P.tpid)
  let hdr := s.ethHeader P off
  { ckValid := s.opr.fcsEn && P.fcsCheck (bytesFrom s.byteAt off (len - 4)) (s.be32 (off + len - 4)),
    ckChecked := s.opr.fcsEn, lenMismatch := false, tagged := tagged,
    hdrOff := BitVec.ofNat 32 off, hdrLen := BitVec.ofNat 32 hdr, payOff := BitVec.ofNat 32 (off + hdr),
    payLen := BitVec.ofNat 32 (if s.opr.fcsEn then len - 4 - hdr else len - hdr),
    ind := .etype (s.be16 (off + hdr - 2)), optOff := BitVec.ofNat 32 (off + hdr), optLen := 0,
    body := .eth
      { dst := s.be48 off, src := s.be48 (off + 6), etherType := s.be16 (off + hdr - 2),
        tci := if tagged then s.be16 (off + 14) else 0,
        fcs := if s.opr.fcsEn then s.be32 (off + len - 4) else 0 } }

/-- The record of `ParseVlan(off, len)` (42_parsers_link_net R145, 10_state R47). -/
def State.vlanRecord (s : State) (off len : Nat) : LayerRec :=
  { ckValid := false, ckChecked := false, lenMismatch := false, tagged := false,
    hdrOff := BitVec.ofNat 32 off, hdrLen := 4, payOff := BitVec.ofNat 32 (off + 4),
    payLen := BitVec.ofNat 32 (len - 4), ind := .etype (s.be16 (off + 2)),
    optOff := BitVec.ofNat 32 (off + 4), optLen := 0,
    body := .vlan { tci := s.be16 off, etherType := s.be16 (off + 2) } }

/-- The header-length nibble of the IPv4 header at `off` (00_scope R12). -/
def State.ihl (s : State) (off : Nat) : Nat := ((s.byteAt off).extractLsb' 0 4).toNat

/-- The version nibble of the IP header at `off` (00_scope R12). -/
def State.version (s : State) (off : Nat) : Nat := ((s.byteAt off).extractLsb' 4 4).toNat

/-- The record of `ParseIp4(off, len, strict)` (42_parsers_link_net R148, 10_state R48). -/
def State.ip4Record (s : State) (off len : Nat) : LayerRec :=
  let hdr := 4 * s.ihl off
  { ckValid := s.checksumHolds PseudoHeader.absent off hdr 10, ckChecked := true, lenMismatch := false,
    tagged := false,
    hdrOff := BitVec.ofNat 32 off, hdrLen := BitVec.ofNat 32 hdr, payOff := BitVec.ofNat 32 (off + hdr),
    payLen := BitVec.ofNat 32 (len - hdr), ind := .ipproto (s.byteAt (off + 9)),
    optOff := BitVec.ofNat 32 (off + 20), optLen := BitVec.ofNat 32 (hdr - 20),
    body := .ip4
      { version := 4, ihl := (s.byteAt off).extractLsb' 0 4,
        dscp := (s.byteAt (off + 1)).extractLsb' 2 6, ecn := (s.byteAt (off + 1)).extractLsb' 0 2,
        totalLength := s.be16 (off + 2), ident := s.be16 (off + 4),
        flags := (s.byteAt (off + 6)).extractLsb' 5 3,
        fragOff := (s.byteAt (off + 6)).extractLsb' 0 5 ++ s.byteAt (off + 7),
        ttl := s.byteAt (off + 8), protocol := s.byteAt (off + 9), checksum := s.be16 (off + 10),
        src := s.be32 (off + 12), dst := s.be32 (off + 16) } }

/-- The record of `ParseIp6(off, len)` (42_parsers_link_net R155, 10_state R49). -/
def State.ip6Record (s : State) (off len : Nat) : LayerRec :=
  { ckValid := false, ckChecked := false, lenMismatch := false, tagged := false,
    hdrOff := BitVec.ofNat 32 off, hdrLen := 40, payOff := BitVec.ofNat 32 (off + 40),
    payLen := BitVec.ofNat 32 (len - 40), ind := .ipproto (s.byteAt (off + 6)),
    optOff := BitVec.ofNat 32 (off + 40), optLen := 0,
    body := .ip6
      { version := 6,
        tclass := (s.byteAt off).extractLsb' 0 4 ++ (s.byteAt (off + 1)).extractLsb' 4 4,
        flow := (s.byteAt (off + 1)).extractLsb' 0 4 ++ s.byteAt (off + 2) ++ s.byteAt (off + 3),
        payloadLength := s.be16 (off + 4), nextHeader := s.byteAt (off + 6), hopLimit := s.byteAt (off + 7),
        src := s.be128 (off + 8), dst := s.be128 (off + 24) } }

/-- The data offset of the TCP header at `off` (10_state R50). -/
def State.doff (s : State) (off : Nat) : Nat := ((s.byteAt (off + 12)).extractLsb' 4 4).toNat

/-- The record of `ParseTcp(off, len, ph, strict)` (43_parsers_transport R172, 10_state R50). -/
def State.tcpRecord (s : State) (off len : Nat) (ph : PseudoHeader) : LayerRec :=
  let hdr := 4 * s.doff off
  { ckValid := s.checksumHolds ph off len 16, ckChecked := true, lenMismatch := false, tagged := false,
    hdrOff := BitVec.ofNat 32 off, hdrLen := BitVec.ofNat 32 hdr, payOff := BitVec.ofNat 32 (off + hdr),
    payLen := BitVec.ofNat 32 (len - hdr), ind := .none,
    optOff := BitVec.ofNat 32 (off + 20), optLen := BitVec.ofNat 32 (hdr - 20),
    body := .tcp
      { sport := s.be16 off, dport := s.be16 (off + 2), seq := s.be32 (off + 4), ack := s.be32 (off + 8),
        doff := (s.byteAt (off + 12)).extractLsb' 4 4,
        flags := (s.byteAt (off + 12)).extractLsb' 0 4 ++ s.byteAt (off + 13),
        window := s.be16 (off + 14), checksum := s.be16 (off + 16), urgent := s.be16 (off + 18) } }

/-- The record of `ParseUdp(off, len, ph, strict)` (43_parsers_transport R177, 10_state R51). -/
def State.udpRecord (s : State) (off len : Nat) (ph : PseudoHeader) : LayerRec :=
  { ckValid := s.checksumHolds ph off len 6, ckChecked := true,
    lenMismatch := decide ((s.be16 (off + 4)).toNat ≠ len), tagged := false,
    hdrOff := BitVec.ofNat 32 off, hdrLen := 8, payOff := BitVec.ofNat 32 (off + 8),
    payLen := BitVec.ofNat 32 (len - 8), ind := .none, optOff := BitVec.ofNat 32 (off + 8), optLen := 0,
    body := .udp
      { sport := s.be16 off, dport := s.be16 (off + 2), length := s.be16 (off + 4), checksum := s.be16 (off + 6) } }

/-- The record of `ParseIcmp(off, len, ph, strict)` (43_parsers_transport R182, 10_state R52). -/
def State.icmpRecord (s : State) (off len : Nat) (ph : PseudoHeader) : LayerRec :=
  { ckValid := s.checksumHolds ph off len 2, ckChecked := true, lenMismatch := false, tagged := false,
    hdrOff := BitVec.ofNat 32 off, hdrLen := 4, payOff := BitVec.ofNat 32 (off + 4),
    payLen := BitVec.ofNat 32 (len - 4), ind := .none, optOff := BitVec.ofNat 32 (off + 4), optLen := 0,
    body := .icmp { type := s.byteAt off, code := s.byteAt (off + 1), checksum := s.be16 (off + 2) } }

/-- The record of the parser of a kind; none for `NONE` (44_dispatch_deep R202). -/
def State.layerRecord (s : State) (P : Params) (kind : Kind) (off len : Nat) (ph : PseudoHeader) :
    Option LayerRec :=
  match kind with
  | .none => none
  | .eth => some (s.ethRecord P off len)
  | .vlan => some (s.vlanRecord off len)
  | .ip4 => some (s.ip4Record off len)
  | .ip6 => some (s.ip6Record off len)
  | .tcp => some (s.tcpRecord off len ph)
  | .udp => some (s.udpRecord off len ph)
  | .icmp => some (s.icmpRecord off len ph)

/-- The first test of a kind's parser that fails on the window `(off, len)`, in the order 60_exceptions R237
collects; none where the layer is decoded. -/
def State.firstFailure (s : State) (P : Params) (kind : Kind) (off len : Nat) (ph : PseudoHeader) : Option Code :=
  match kind with
  | .none => none
  | .eth =>
    if s.opr.fcsEn = true ∧ len < P.ethMinFrame then some .malformedPacket
    else if len < 14 then some .unexpectedEof
    else if s.be16 (off + 12) = P.tpid ∧ len < 18 then some .unexpectedEof
    else none
  | .vlan => if len < 4 then some .unexpectedEof else none
  | .ip4 =>
    if len = 0 then some .unexpectedEof
    else if s.version off ≠ 4 then some .invalidVersion
    else if s.ihl off < 5 then some .headerTooShort
    else if len < 4 * s.ihl off then some .truncatedPacket
    else if s.opr.strict = true ∧ s.checksumHolds PseudoHeader.absent off (4 * s.ihl off) 10 = false then
      some .checksumMismatch
    else none
  | .ip6 =>
    if len = 0 then some .unexpectedEof
    else if s.version off ≠ 6 then some .invalidVersion
    else if len < 40 then some .unexpectedEof
    else none
  | .tcp =>
    if len < 20 then some .unexpectedEof
    else if s.doff off < 5 then some .headerTooShort
    else if len < 4 * s.doff off then some .truncatedPacket
    else if s.opr.strict = true ∧ s.checksumHolds ph off len 16 = false then some .checksumMismatch
    else none
  | .udp =>
    if len < 8 then some .unexpectedEof
    else if s.opr.strict = true ∧ (s.be16 (off + 4)).toNat ≠ len then some .malformedPacket
    else if s.opr.strict = true ∧ s.checksumHolds ph off len 6 = false then some .checksumMismatch
    else none
  | .icmp =>
    if len < 4 then some .unexpectedEof
    else if s.opr.strict = true ∧ s.checksumHolds ph off len 2 = false then some .checksumMismatch
    else none

/-! ### Illegal command words and outcome codes -/

/-- The opcodes of the opcode map (30_encoding R81). -/
def opcodeMap : List Byte :=
  [0x00, 0x01, 0x02, 0x03, 0x04, 0x05, 0x06, 0x07, 0x08, 0x10, 0x11, 0x20, 0x21, 0x22, 0x23, 0x24, 0x25, 0x26,
   0x30, 0x31, 0x38, 0x39, 0x3A, 0x7F]

/-- When a command word is illegal (30_encoding R83), by its bits alone. -/
def illegalBits (w : Word) : Prop :=
  w.extractLsb' 12 20 ≠ 0 ∨ w.extractLsb' 0 8 ∉ opcodeMap
    ∨ (w.extractLsb' 0 8 ≠ 0x11 ∧ w.extractLsb' 0 8 ≠ 0x38 ∧ w.extractLsb' 8 4 ≠ 0)
    ∨ (w.extractLsb' 0 8 = 0x11 ∧ 3 ≤ (w.extractLsb' 8 4).toNat)
    ∨ (w.extractLsb' 0 8 = 0x38 ∧ (w.extractLsb' 8 4 = 0 ∨ 8 ≤ (w.extractLsb' 8 4).toNat))

/-- The slice a command is given, which the window check is made on (60_exceptions R234): the window, the cursor
slice or the deep-parse slice; none for a command that makes no such check. -/
def State.slice (s : State) : Instr → Option (Nat × Nat)
  | .curOpen | .csumIp4 | .csumXport _ | .parseEth | .parseVlan | .parseIp4 | .parseIp6 | .parseTcp | .parseUdp
  | .parseIcmp | .deepStart _ => some (s.opr.winOff.toNat, s.opr.winLen.toNat)
  | .curRd8 | .curRd16 | .curRd32 | .curRdb | .curPeek => some (s.cur.base.toNat, s.cur.len.toNat)
  | .deepStep | .deepRun => some (s.dp.off.toNat, s.dp.len.toNat)
  | .nop | .curRem | .curSkip | .dispEtype | .dispIpproto | .clear => none

/-! ### Premises of the statements -/

/-- The operand registers' addresses, each with the bits that are not zero fields (10_state R23). -/
def operandMasks : List (BitVec 17 × Word) :=
  [(0x008, 0x00000003), (0x00C, 0xFFFFFFFF), (0x010, 0xFFFFFFFF), (0x014, 0xFFFFFFFF), (0x018, 0xFFFFFFFF),
   (0x01C, 0x0000FFFF), (0x020, 0x0000FF03), (0x024, 0xFFFFFFFF), (0x028, 0xFFFFFFFF), (0x02C, 0xFFFFFFFF),
   (0x030, 0xFFFFFFFF), (0x034, 0xFFFFFFFF), (0x038, 0xFFFFFFFF), (0x03C, 0xFFFFFFFF), (0x040, 0xFFFFFFFF),
   (0x044, 0xFFFFFFFF)]

/-- The cursor slice passes the window check (40_cursor R108, 60_exceptions R234). -/
def State.cursorInside (s : State) : Prop :=
  s.cur.base.toNat + s.cur.len.toNat ≤ s.opr.bufLen.toNat ∧ s.opr.bufLen.toNat ≤ build.bufSize

/-- The window passes the window check (60_exceptions R234). -/
def State.windowInside (s : State) : Prop :=
  s.opr.winOff.toNat + s.opr.winLen.toNat ≤ s.opr.bufLen.toNat ∧ s.opr.bufLen.toNat ≤ build.bufSize

/-- The deep-parse slice passes the window check while a deep parse is open with a parser selected (44_dispatch_deep
R201; 10_state R37 says a parser is selected in state `PARSING`). -/
def State.deepReady (s : State) : Prop :=
  s.dp.state = .parsing ∧ s.dp.next ≠ .none ∧
    s.dp.off.toNat + s.dp.len.toNat ≤ s.opr.bufLen.toNat ∧ s.opr.bufLen.toNat ≤ build.bufSize

/-! ### Well-formed layer records (10_state R43 to R52) -/

/-- The bytes after the payload that belong to no slice: the FCS of an `ETH` layer whose FCS was checked
(10_state R45). -/
def LayerRec.trailer (r : LayerRec) : Nat := if r.kind = Kind.eth ∧ r.ckChecked = true then 4 else 0

/-- What a record's kind fixes (10_state R44, R46 to R52). -/
def LayerRec.shape (r : LayerRec) : Prop :=
  match r.body with
  | .eth f =>
    r.hdrLen = (if r.tagged then 18 else 14) ∧ r.optLen = 0 ∧ r.ind = .etype f.etherType ∧ r.lenMismatch = false
      ∧ (r.tagged = false → f.tci = 0) ∧ (r.ckChecked = false → f.fcs = 0)
  | .vlan f =>
    r.hdrLen = 4 ∧ r.optLen = 0 ∧ r.ind = .etype f.etherType ∧ r.lenMismatch = false ∧ r.tagged = false
      ∧ r.ckChecked = false
  | .ip4 f =>
    f.version = 4 ∧ 5 ≤ f.ihl.toNat ∧ r.hdrLen.toNat = 4 * f.ihl.toNat ∧ r.optLen.toNat = 4 * f.ihl.toNat - 20
      ∧ r.ind = .ipproto f.protocol ∧ r.lenMismatch = false ∧ r.tagged = false ∧ r.ckChecked = true
  | .ip6 f =>
    f.version = 6 ∧ r.hdrLen = 40 ∧ r.optLen = 0 ∧ r.ind = .ipproto f.nextHeader ∧ r.lenMismatch = false
      ∧ r.tagged = false ∧ r.ckChecked = false
  | .tcp f =>
    5 ≤ f.doff.toNat ∧ r.hdrLen.toNat = 4 * f.doff.toNat ∧ r.optLen.toNat = 4 * f.doff.toNat - 20
      ∧ r.ind = .none ∧ r.lenMismatch = false ∧ r.tagged = false ∧ r.ckChecked = true
  | .udp f =>
    r.hdrLen = 8 ∧ r.optLen = 0 ∧ r.ind = .none ∧ r.tagged = false ∧ r.ckChecked = true
      ∧ (r.lenMismatch = true ↔ f.length.toNat ≠ 8 + r.payLen.toNat)
  | .icmp _ =>
    r.hdrLen = 4 ∧ r.optLen = 0 ∧ r.ind = .none ∧ r.lenMismatch = false ∧ r.tagged = false ∧ r.ckChecked = true

/-- A valid slot (10_state R43 to R45): its slices lie one after the other inside the buffer, its validity flag is
set only where a checksum was checked, and its kind's shape holds. -/
structure LayerRec.Valid (P : Params) (r : LayerRec) : Prop where
  payOff : r.payOff.toNat = r.hdrOff.toNat + r.hdrLen.toNat
  payEnd : r.payOff.toNat + r.payLen.toNat + r.trailer ≤ P.bufSize
  options : r.optOff.toNat + r.optLen.toNat = r.hdrOff.toNat + r.hdrLen.toNat
  checked : r.ckValid = true → r.ckChecked = true
  shape : r.shape

/-- Layer `b` is the one decoded from layer `a`'s payload (44_dispatch_deep R209): its parser is the one `a`'s
indicator selects, its window is `a`'s payload slice. -/
def LayerRec.Follows (P : Params) (a b : LayerRec) : Prop :=
  dispatch P a.ind = b.kind ∧ b.hdrOff = a.payOff
    ∧ b.payOff.toNat + b.payLen.toNat = a.payOff.toNat + a.payLen.toNat

/-! ### The invariant of a run -/

/-- The current slice is the last layer's payload slice, if there is a layer (44_dispatch_deep R201). -/
def State.sliceFollows (s : State) : Prop :=
  ∀ r, s.layers.getLast? = some r → s.dp.off = r.payOff ∧ s.dp.len = r.payLen

/-- What the sequencer keeps in each of its states (10_state R37, 44_dispatch_deep R205). -/
def State.sequencerOk (P : Params) (s : State) : Prop :=
  match s.dp.state with
  | .idle => True
  | .parsing | .failed =>
    s.dp.next ≠ Kind.none ∧ s.dp.opqOff = 0 ∧ s.dp.opqLen = 0 ∧ s.sliceFollows
      ∧ ∀ r, s.layers.getLast? = some r → dispatch P r.ind = s.dp.next
  | .terminated =>
    s.dp.next = Kind.none ∧ s.dp.opqOff = s.dp.off ∧ s.dp.opqLen = s.dp.len ∧ s.sliceFollows
      ∧ ∃ r, s.layers.getLast? = some r ∧ dispatch P r.ind = Kind.none

/-- The invariant every step keeps: the buffer's canonical form; the cursor inside its slice and the slice inside
the buffer (40_cursor R110); at most `MAX_DEPTH` layers, each valid, each decoded from the one before it; the
sequencer's invariants (10_state R37); `STATUS` a pair the spec lists (60_exceptions R231). -/
structure State.Inv (P : Params) (s : State) : Prop where
  memory : Memory.wf P s.mem
  cursor : s.cur.pos.toNat ≤ s.cur.len.toNat
  cursorSlice : s.cur.base.toNat + s.cur.len.toNat ≤ P.bufSize
  depth : s.layers.length ≤ P.maxDepth
  records : ∀ r ∈ s.layers, r.Valid P
  chained : s.layers.IsChain (LayerRec.Follows P)
  slice : s.dp.off.toNat + s.dp.len.toNat ≤ P.bufSize
  opaqueSlice : s.dp.opqOff.toNat + s.dp.opqLen.toNat ≤ P.bufSize
  sequencer : s.sequencerOk P
  statusErr : s.status.err = s.status.code.isError
  statusLayer : s.status.layer.toNat ≤ P.maxDepth

end Sys2Proof.Machine
end

