-- ==== Sys2Proof/Certificates/Slice0/Obligations.lean ====
section
/-! DEFINITION. The statements about this machine, each a proposition; each docstring names the rules of the spec it
formalises. `exec` and `step` run the default build; statements with a `P : Params` hold of every build. -/

section

open Sys2Proof Sys2Proof.Machine

/-! ### Command words -/

/-- 30_encoding R80 to R83: the decoder reads a command from a word exactly when the word is that well-formed
command's encoding. -/
def Obligations.DecodeReadsExactlyTheEncodings : Prop :=
  ∀ (w : Word) (i : Instr), decode w = .cmd i ↔ i.wellFormed = true ∧ w = encode i

/-- 30_encoding R83: a word with illegal bits fails with `IllegalCommand` and changes nothing but `STATUS`; every other
word is a command of the map, and no command's word is illegal. -/
def Obligations.IllegalWordsChangeOnlyStatus : Prop :=
  (∀ i : Instr, i.wellFormed = true → ¬ illegalBits (encode i)) ∧
  ∀ (s : State) (w : Word),
    (illegalBits w →
      runCommand w s = .next { s with status := { err := true, code := .illegalCommand, layer := 0 } }) ∧
    (¬ illegalBits w → ∃ i : Instr, i.wellFormed = true ∧ w = encode i ∧ runCommand w s = exec i s)

/-- 30_encoding R81, R82: the word of every opcode and of every selector, written out from the opcode map, decodes to the
command it stands for. -/
def Obligations.WrittenWordsDecode : Prop :=
  decode 0x00000000 = .cmd .nop ∧ decode 0x0000007F = .cmd .clear ∧
  decode 0x00000001 = .cmd .curOpen ∧ decode 0x00000002 = .cmd .curRd8 ∧ decode 0x00000003 = .cmd .curRd16 ∧
  decode 0x00000004 = .cmd .curRd32 ∧ decode 0x00000005 = .cmd .curRdb ∧ decode 0x00000006 = .cmd .curPeek ∧
  decode 0x00000007 = .cmd .curRem ∧ decode 0x00000008 = .cmd .curSkip ∧
  decode 0x00000010 = .cmd .csumIp4 ∧ decode 0x00000011 = .cmd (.csumXport .tcp) ∧
  decode 0x00000111 = .cmd (.csumXport .udp) ∧ decode 0x00000211 = .cmd (.csumXport .icmp) ∧
  decode 0x00000020 = .cmd .parseEth ∧ decode 0x00000021 = .cmd .parseVlan ∧ decode 0x00000022 = .cmd .parseIp4 ∧
  decode 0x00000023 = .cmd .parseIp6 ∧ decode 0x00000024 = .cmd .parseTcp ∧ decode 0x00000025 = .cmd .parseUdp ∧
  decode 0x00000026 = .cmd .parseIcmp ∧ decode 0x00000030 = .cmd .dispEtype ∧ decode 0x00000031 = .cmd .dispIpproto ∧
  decode 0x00000138 = .cmd (.deepStart .eth) ∧ decode 0x00000238 = .cmd (.deepStart .vlan) ∧
  decode 0x00000338 = .cmd (.deepStart .ip4) ∧ decode 0x00000438 = .cmd (.deepStart .ip6) ∧
  decode 0x00000538 = .cmd (.deepStart .tcp) ∧ decode 0x00000638 = .cmd (.deepStart .udp) ∧
  decode 0x00000738 = .cmd (.deepStart .icmp) ∧ decode 0x00000039 = .cmd .deepStep ∧
  decode 0x0000003A = .cmd .deepRun

/-! ### The step and the host -/

/-- 10_state R30, 20_memory R70, R73, 70_reset_and_hazards R260: each step takes the host's next operation from the queue
and performs it; a full aligned word written to `CMD` that decodes to a command is that command at that state; with
nothing to do the engine waits. The queue and the data a read leaves are the model's own (log 1, log 4, log 7). -/
def Obligations.StepRunsTheWrittenCommand : Prop :=
  ∀ (s : State) (rest : List HostOp),
    (∀ (w : Word) (i : Instr), s.hostOps = .write .byte4 0 w :: rest → decode w = .cmd i →
      step s = exec i { s with hostOps := rest }) ∧
    (∀ w : Word, s.hostOps = .write .byte4 0 w :: rest → step s = runCommand w { s with hostOps := rest }) ∧
    (∀ (size : AccessSize) (addr : BitVec 17) (d : Word), s.hostOps = .write size addr d :: rest →
      (size ≠ .byte4 ∨ addr ≠ 0) → step s = .next (hostWrite build { s with hostOps := rest } size addr d)) ∧
    (∀ (size : AccessSize) (addr : BitVec 17), s.hostOps = .read size addr :: rest →
      step s = .next { s with hostOps := rest, readData := readValue build s size addr, reads := s.reads + 1 }) ∧
    (∀ (off : Nat) (bytes : List Byte) (t : State), s.hostOps = .load off bytes :: rest →
      hostLoad build { s with hostOps := rest } off bytes = some t → step s = .next t) ∧
    (s.hostOps = [] → step s = .next s)

/-- 20_memory R66: below the buffer window an access that is not a full aligned word does nothing, and is no command; a
full aligned word written to address 0 is one; an access beyond `BUF_SIZE` does nothing. -/
def Obligations.NarrowOrMisalignedAccessesDoNothing : Prop :=
  (∀ (P : Params) (s : State) (size : AccessSize) (addr : BitVec 17) (d : Word),
    addr.toNat < 0x10000 → (size ≠ .byte4 ∨ addr.toNat % 4 ≠ 0) →
    hostWrite P s size addr d = s ∧ readValue P s size addr = 0 ∧ (HostOp.write size addr d).command = none) ∧
  (∀ d : Word, (HostOp.write .byte4 0 d).command = some d) ∧
  ∀ (P : Params) (s : State) (size : AccessSize) (addr : BitVec 17) (d : Word),
    0x10000 + P.bufSize ≤ addr.toNat → hostWrite P s size addr d = s ∧ readValue P s size addr = 0

/-- 10_state R22 to R36: an aligned word read of a register returns its fields at their bits, and changes no register,
no slot and no byte. `CMD` reads 0. The numbers of outcome codes, kinds and sequencer states are those of 60_exceptions
R231, 00_scope R16 and 10_state R36. -/
def Obligations.RegisterReadsReturnTheirFields : Prop :=
  [Code.ok, .unexpectedEof, .truncatedPacket, .invalidVersion, .headerTooShort, .malformedPacket, .checksumMismatch,
    .unsupportedProtocol, .maxDepthExceeded, .illegalCommand, .badWindow, .badState].map Code.number =
      [0, 1, 2, 3, 4, 5, 6, 7, 8, 9, 10, 11] ∧
  [Kind.none, .eth, .vlan, .ip4, .ip6, .tcp, .udp, .icmp].map Kind.code = [0, 1, 2, 3, 4, 5, 6, 7] ∧
  [DpState.idle, .parsing, .terminated, .failed].map DpState.code = [0, 1, 2, 3] ∧
  ∀ (s : State) (addr : BitVec 17) (v : Word) (rest : List HostOp),
    (addr, v) ∈
      [((0x000 : BitVec 17), (0 : Word)),
       (0x004, (0 : Half) ++ s.status.layer ++ s.status.code.number ++ (0 : BitVec 3) ++ BitVec.ofBool s.status.err),
       (0x008, (0 : BitVec 30) ++ BitVec.ofBool s.opr.strict ++ BitVec.ofBool s.opr.fcsEn),
       (0x00C, s.opr.bufLen), (0x010, s.opr.winOff), (0x014, s.opr.winLen), (0x018, s.opr.opn),
       (0x01C, (0 : Half) ++ s.opr.pid),
       (0x020, (0 : Half) ++ s.opr.phProto ++ (0 : BitVec 6) ++ s.opr.phKind), (0x024, s.opr.phLen),
       (0x028, s.opr.phSrc0), (0x02C, s.opr.phSrc1), (0x030, s.opr.phSrc2), (0x034, s.opr.phSrc3),
       (0x038, s.opr.phDst0), (0x03C, s.opr.phDst1), (0x040, s.opr.phDst2), (0x044, s.opr.phDst3),
       (0x048, s.res.rval), (0x04C, s.res.roff), (0x050, s.res.rlen), (0x054, s.res.stored ++ s.res.computed),
       (0x058, s.cur.base), (0x05C, s.cur.len), (0x060, s.cur.pos),
       (0x064, (0 : BitVec 28) ++ s.res.next.code),
       (0x068, (0 : BitVec 24) ++ s.dp.next.code ++ (0 : BitVec 2) ++ s.dp.state.code),
       (0x06C, s.dp.off), (0x070, s.dp.len), (0x074, (0 : BitVec 24) ++ BitVec.ofNat 8 s.layers.length),
       (0x078, s.dp.opqOff), (0x07C, s.dp.opqLen)] →
    s.hostOps = .read .byte4 addr :: rest →
    step s = .next { s with hostOps := rest, readData := v, reads := s.reads + 1 }

/-- 10_state R22, R23: an operand register resets to 0; a word written to it reads back with its zero fields 0; every
other address reads as before, and nothing but the operand registers changes. -/
def Obligations.OperandWritesReadBack : Prop :=
  ∀ (addr : BitVec 17) (mask : Word), (addr, mask) ∈ operandMasks →
    readValue build State.reset .byte4 addr = 0 ∧
    ∀ (s : State) (d : Word) (rest : List HostOp), s.hostOps = .write .byte4 addr d :: rest →
      ∃ t : State, step s = .next t ∧ t = { s with hostOps := rest, opr := t.opr } ∧
        readValue build t .byte4 addr = d &&& mask ∧
        ∀ other : BitVec 17, other ≠ addr → readValue build t .byte4 other = readValue build s .byte4 other

/-- 10_state R22, R39, R40, 20_memory R68: below the buffer window a host write to an address that is neither `CMD` nor
an operand register is ignored. -/
def Obligations.ReadOnlySpaceIgnoresWrites : Prop :=
  ∀ (s : State) (addr : BitVec 17) (d : Word) (rest : List HostOp), addr.toNat < 0x10000 → addr ≠ 0 →
    (∀ mask : Word, (addr, mask) ∉ operandMasks) → s.hostOps = .write .byte4 addr d :: rest →
    step s = .next { s with hostOps := rest }

/-- 10_state R39, 20_memory R68: the constants, in every build the spec admits, and the reserved addresses: those after the
registers, and those after the last slot of the layer file. -/
def Obligations.ConstantAndReservedRegisters : Prop :=
  ∀ (P : Params) (s : State), P.Admissible →
    readValue P s .byte4 0x080 = 0x4E534231 ∧
    ((readValue P s .byte4 0x084).extractLsb' 0 8).toNat = P.maxDepth ∧
    ((readValue P s .byte4 0x084).extractLsb' 8 17).toNat = P.bufSize ∧
    (readValue P s .byte4 0x084).extractLsb' 25 7 = 0 ∧
    (∀ addr : BitVec 17, 0x088 ≤ addr.toNat → addr.toNat ≤ 0xFFC → readValue P s .byte4 addr = 0) ∧
    (∀ (addr : BitVec 17) (d : Word), 0x080 ≤ addr.toNat → addr.toNat ≤ 0xFFC → hostWrite P s .byte4 addr d = s) ∧
    ∀ (addr : BitVec 17) (d : Word), 0x1000 + 0x80 * P.maxDepth ≤ addr.toNat → addr.toNat ≤ 0xFFFF →
      readValue P s .byte4 addr = 0 ∧ hostWrite P s .byte4 addr d = s

/-- 20_memory R64: the little-endian lanes of host accesses to `BUF`, of 1, 2 or 4 bytes, naturally aligned, in every
build the spec admits; nothing but the bytes of the access changes. -/
def Obligations.BufferAccessesUseLittleEndianLanes : Prop :=
  ∀ (P : Params) (s : State) (size : AccessSize) (a : Nat), P.Admissible →
    a % size.bytes = 0 → a + size.bytes ≤ P.bufSize →
    (∀ d : Word,
      let t := hostWrite P s size (BitVec.ofNat 17 (0x10000 + a)) d
      t = { s with mem := t.mem } ∧
        (∀ i, i < size.bytes → t.byteAt (a + i) = d.extractLsb' (8 * i) 8) ∧
        ∀ x, x < a ∨ a + size.bytes ≤ x → t.byteAt x = s.byteAt x) ∧
    ∀ i, i < size.bytes →
      (readValue P s size (BitVec.ofNat 17 (0x10000 + a))).extractLsb' (8 * i) 8 = s.byteAt (a + i)

/-- 20_memory R62: `HostLoad` stores its bytes, the bytes it does not name keep their value, and no command writes a
byte of `BUF`. -/
def Obligations.HostLoadStoresItsBytes : Prop :=
  (∀ (P : Params) (s : State) (off : Nat) (bytes : List Byte), off + bytes.length ≤ P.bufSize →
    ∃ t : State, hostLoad P s off bytes = some t ∧ t = { s with mem := t.mem } ∧
      (∀ i, i < bytes.length → some (t.byteAt (off + i)) = bytes[i]?) ∧
      ∀ x, x < off ∨ off + bytes.length ≤ x → t.byteAt x = s.byteAt x) ∧
  ∀ (w : Word) (s t : State), runCommand w s = .next t → ∀ a, t.byteAt a = s.byteAt a

/-- 10_state R40, R42, R44, R46 to R52: word `w` of a valid slot is read at its address; the common words hold their
fields at their bits; each kind's words hold its fields, zero-extended; every other word reads 0. -/
def Obligations.ValidSlotsReadTheirWords : Prop :=
  (∀ (s : State) (i w : Nat) (r : LayerRec), s.layers[i]? = some r → i < build.maxDepth → w < 32 →
    readValue build s .byte4 (BitVec.ofNat 17 (0x1000 + 0x80 * i + 4 * w)) = r.word w) ∧
  ∀ r : LayerRec,
    (r.word 0).extractLsb' 0 4 =
      (match r.body with
        | .eth _ => 1
        | .vlan _ => 2
        | .ip4 _ => 3
        | .ip6 _ => 4
        | .tcp _ => 5
        | .udp _ => 6
        | .icmp _ => 7) ∧
    (r.word 0).extractLsb' 4 4 = 0 ∧
    (r.word 0).getLsbD 8 = r.ckValid ∧ (r.word 0).getLsbD 9 = r.ckChecked ∧
    (r.word 0).getLsbD 10 = r.lenMismatch ∧ (r.word 0).getLsbD 11 = r.tagged ∧
    ((r.word 0).getLsbD 12 = true ↔ (r.kind = .ip4 ∨ r.kind = .tcp) ∧ 0 < r.optLen.toNat) ∧
    (r.word 0).extractLsb' 13 19 = 0 ∧
    r.word 1 = r.hdrOff ∧ r.word 2 = r.hdrLen ∧ r.word 3 = r.payOff ∧ r.word 4 = r.payLen ∧
    r.word 5 =
      (match r.ind with
        | .none => 0
        | .etype v => (0 : BitVec 14) ++ (1 : BitVec 2) ++ v
        | .ipproto v => (0 : BitVec 14) ++ (2 : BitVec 2) ++ (0 : Byte) ++ v) ∧
    r.word 6 = r.optOff ∧ r.word 7 = r.optLen ∧
    (List.range 24).map (fun j => r.word (8 + j)) =
      (match r.body with
        | .eth f =>
          [(f.dst >>> 32).setWidth 32, f.dst.setWidth 32, (f.src >>> 32).setWidth 32, f.src.setWidth 32,
           f.etherType.setWidth 32, f.tci.setWidth 32, (f.tci >>> 13).setWidth 32,
           ((f.tci >>> 12) &&& 1).setWidth 32, (f.tci &&& 0xFFF).setWidth 32, f.fcs] ++ List.replicate 14 0
        | .vlan f =>
          [f.tci.setWidth 32, (f.tci >>> 13).setWidth 32, ((f.tci >>> 12) &&& 1).setWidth 32,
           (f.tci &&& 0xFFF).setWidth 32, f.etherType.setWidth 32] ++ List.replicate 19 0
        | .ip4 f =>
          [f.version.setWidth 32, f.ihl.setWidth 32, f.dscp.setWidth 32, f.ecn.setWidth 32,
           f.totalLength.setWidth 32, f.ident.setWidth 32, f.flags.setWidth 32, f.fragOff.setWidth 32,
           f.ttl.setWidth 32, f.protocol.setWidth 32, f.checksum.setWidth 32, f.src, f.dst] ++ List.replicate 11 0
        | .ip6 f =>
          [f.version.setWidth 32, f.tclass.setWidth 32, f.flow.setWidth 32, f.payloadLength.setWidth 32,
           f.nextHeader.setWidth 32, f.hopLimit.setWidth 32,
           (f.src >>> 96).setWidth 32, (f.src >>> 64).setWidth 32, (f.src >>> 32).setWidth 32, f.src.setWidth 32,
           (f.dst >>> 96).setWidth 32, (f.dst >>> 64).setWidth 32, (f.dst >>> 32).setWidth 32, f.dst.setWidth 32]
            ++ List.replicate 10 0
        | .tcp f =>
          [f.sport.setWidth 32, f.dport.setWidth 32, f.seq, f.ack, f.doff.setWidth 32, f.flags.setWidth 32,
           f.window.setWidth 32, f.checksum.setWidth 32, f.urgent.setWidth 32] ++ List.replicate 15 0
        | .udp f =>
          [f.sport.setWidth 32, f.dport.setWidth 32, f.length.setWidth 32, f.checksum.setWidth 32]
            ++ List.replicate 20 0
        | .icmp f =>
          [f.type.setWidth 32, f.code.setWidth 32, f.checksum.setWidth 32] ++ List.replicate 21 0)

/-! ### Reset -/

/-- 10_state R53: after reset every register reads 0 but the two constants, no slot is valid, and every byte of `BUF` is
the free value (log 2). -/
def Obligations.ResetReadsZero : Prop :=
  (∀ addr : BitVec 17, addr.toNat < 0x080 → readValue build State.reset .byte4 addr = 0) ∧
  readValue build State.reset .byte4 0x080 = 0x4E534231 ∧
  readValue build State.reset .byte4 0x084 = 0x01000010 ∧
  State.reset.opr.fcsEn = false ∧ State.reset.opr.strict = false ∧ State.reset.opr.bufLen = 0 ∧
  State.reset.opr.winOff = 0 ∧ State.reset.opr.winLen = 0 ∧ phKindOf State.reset.opr.phKind = some .none ∧
  State.reset.status = { err := false, code := .ok, layer := 0 } ∧
  State.reset.cur = { base := 0, len := 0, pos := 0 } ∧
  State.reset.dp = { state := .idle, next := .none, off := 0, len := 0, opqOff := 0, opqLen := 0 } ∧
  State.reset.layers = [] ∧ ∀ a, State.reset.byteAt a = Config.bufByte 0 a

/-- 70_reset_and_hazards R260 to R262: the platform's reset puts the block in its reset state, whatever it held, with
every byte of `BUF` a fresh free value (log 3); the host's queue and the data it read are the host's (log 15). -/
def Obligations.PlatformResetRestoresTheResetState : Prop :=
  ∀ (s : State) (rest : List HostOp), s.hostOps = .reset :: rest →
    ∃ t : State, step s = .next t ∧
      t = { State.reset with hostOps := rest, readData := s.readData, reads := s.reads, resets := s.resets + 1 } ∧
      ∀ a, t.byteAt a = Config.bufByte (s.resets + 1) a

/-! ### What holds of every command -/

/-- 10_state R35, R37, R40, 20_memory R62, 60_exceptions R231: every step keeps the invariant of a run. -/
def Obligations.StepKeepsTheInvariant : Prop :=
  ∀ s t : State, s.Inv build → step s = .next t → t.Inv build

/-- The state after reset meets the invariant of a run. -/
def Obligations.ResetMeetsTheInvariant : Prop := State.reset.Inv build

/-- 60_exceptions R230: every command word, legal or not, ends in one outcome written to `STATUS`, in every state where
an open deep parse has a parser selected (10_state R37; `StepKeepsTheInvariant`). -/
def Obligations.EveryCommandEndsInOneOutcome : Prop :=
  ∀ (s : State) (w : Word), (s.dp.state = .parsing → s.dp.next ≠ .none) →
    ∃ t : State, runCommand w s = .next t ∧ t.status.err = t.status.code.isError

/-- 60_exceptions R231, R232: the codes each command can end in, and the `ERR` bit each comes with. -/
def Obligations.EachCommandEndsInItsCodes : Prop :=
  ∀ (i : Instr) (s t : State), exec i s = .next t →
    t.status.err = t.status.code.isError ∧
    t.status.code ∈ [.ok, .illegalCommand] ++ i.codes ∧
    (t.status.code = .illegalCommand →
      i.wellFormed = false ∨ (i.readsPseudoHeader = true ∧ s.opr.phKind = 3))

/-- 70_reset_and_hazards R265, 00_scope R10: no command writes an operand register or a byte of `BUF`, or touches what
belongs to the host. -/
def Obligations.OperandsAreNotConsumed : Prop :=
  ∀ (i : Instr) (s t : State), exec i s = .next t →
    t.opr = s.opr ∧ t.mem = s.mem ∧ (∀ a, t.byteAt a = s.byteAt a) ∧ t.hostOps = s.hostOps ∧
    t.readData = s.readData ∧ t.reads = s.reads ∧ t.resets = s.resets

/-- 10_state R31 to R38, R41: the frame of every command; each register is written by its own commands only. -/
def Obligations.RegistersWrittenOnlyByTheirCommands : Prop :=
  ∀ (i : Instr) (s t : State), exec i s = .next t →
    (i.writesCursor = false → t.cur = s.cur) ∧
    (i.writesRval = false → t.res.rval = s.res.rval) ∧
    (i.writesSlice = false → t.res.roff = s.res.roff ∧ t.res.rlen = s.res.rlen) ∧
    (i.writesCsum = false → t.res.computed = s.res.computed ∧ t.res.stored = s.res.stored) ∧
    (i.writesNext = false → t.res.next = s.res.next) ∧
    (i.writesLayers = false → t.layers = s.layers ∧ t.dp.state = s.dp.state) ∧
    (i.writesSlices = false →
      t.dp.next = s.dp.next ∧ t.dp.off = s.dp.off ∧ t.dp.len = s.dp.len ∧ t.dp.opqOff = s.dp.opqOff ∧
      t.dp.opqLen = s.dp.opqLen) ∧
    (i ≠ .deepStep → i ≠ .deepRun → t.status.layer = 0)

/-- 60_exceptions R236: a failing command has the effects of its row and no others. -/
def Obligations.FailuresHaveExactlyTheirEffects : Prop :=
  (∀ (w : Word) (s : State), (∀ i : Instr, decode w ≠ .cmd i) →
    runCommand w s = .next (s.onlyStatus .illegalCommand)) ∧
  ∀ (i : Instr) (s t : State), exec i s = .next t → t.status.err = true →
    (t.status.code ∈ [.illegalCommand, .badWindow, .badState] → t = s.onlyStatus t.status.code) ∧
    (t.status.code ∉ [.illegalCommand, .badWindow, .badState] →
      (i.writesLayers = false → t = s.onlyStatus t.status.code) ∧
      ((∃ k : Kind, k.parseCommand = some i) → t = s.parseFailed t.status.code) ∧
      (i = .deepStep → t = s.deepFailed t.status.code) ∧
      (i = .deepRun →
        ∃ (n : Nat) (u : State), deepSteps n s = .next u ∧ u.dp.state = .parsing ∧
          t = u.deepFailed t.status.code) ∧
      i ∉ [.nop, .dispEtype, .dispIpproto, .clear] ∧ ∀ k : Kind, i ≠ .deepStart k)

/-- 60_exceptions R234: a command given a slice that is not inside the buffer fails with `BadWindow` and changes nothing
else; a slice that is inside never gives `BadWindow`. -/
def Obligations.SlicesOutsideTheBufferAreRefused : Prop :=
  ∀ (i : Instr) (s : State) (o n : Nat), i.wellFormed = true → s.slice i = some (o, n) →
    (i.readsPseudoHeader = true → s.opr.phKind ≠ 3) → (i = .deepStep ∨ i = .deepRun → s.dp.state = .parsing) →
    (¬ (o + n ≤ s.opr.bufLen.toNat ∧ s.opr.bufLen.toNat ≤ build.bufSize) →
      exec i s = .next (s.onlyStatus .badWindow)) ∧
    (o + n ≤ s.opr.bufLen.toNat ∧ s.opr.bufLen.toNat ≤ build.bufSize →
      ∀ t : State, exec i s = .next t → t.status.code ≠ .badWindow)

/-- 20_memory R69, R61: two states that differ only in the bytes of `BUF` at or above `BUF_LEN` take every command to
states that differ only in those bytes; a slice that reaches beyond `BUF_LEN` is refused whatever the bytes are. -/
def Obligations.EngineReadsOnlyBelowBufLen : Prop :=
  (∀ (i : Instr) (s : State) (m : Memory),
    (∀ a, a < s.opr.bufLen.toNat → ({ s with mem := m } : State).byteAt a = s.byteAt a) →
    exec i { s with mem := m } =
      (match exec i s with
        | .next t => .next { t with mem := m }
        | .fault f => .fault f
        | .refused r => .refused r)) ∧
  ∀ (i : Instr) (s : State) (o n : Nat), i.wellFormed = true → s.slice i = some (o, n) →
    (i.readsPseudoHeader = true → s.opr.phKind ≠ 3) → (i = .deepStep ∨ i = .deepRun → s.dp.state = .parsing) →
    s.opr.bufLen.toNat < o + n → exec i s = .next (s.onlyStatus .badWindow)

/-- 10_state R28: `PH_KIND = 3` makes every command that reads the pseudo-header fail with `IllegalCommand`, before
every other check of that command (60_exceptions R237). -/
def Obligations.ReservedPseudoHeaderIsIllegal : Prop :=
  ∀ (i : Instr) (s : State), i.readsPseudoHeader = true → s.opr.phKind = 3 →
    exec i s = .next (s.onlyStatus .illegalCommand)

/-- 60_exceptions R239, 44_dispatch_deep R209: in lenient mode no command fails on a checksum mismatch, and a UDP
parse never fails on its length field, alone or as a layer of a deep parse: the one `MalformedPacket` of a deep parse is
that of 42_parsers_link_net R144 (a), a first Ethernet frame below the minimum with the frame check on. -/
def Obligations.LenientMismatchesNeverFail : Prop :=
  ∀ (i : Instr) (s t : State), s.opr.strict = false → exec i s = .next t →
    t.status.code ≠ .checksumMismatch ∧ (i = .parseUdp → t.status.code ≠ .malformedPacket) ∧
    (i = .deepStep ∨ i = .deepRun → t.status.code = .malformedPacket →
      s.dp.next = .eth ∧ s.opr.fcsEn = true ∧ s.dp.len.toNat < 64 ∧ t.layers = s.layers)

/-! ### The byte cursor -/

/-- 40_cursor R100. -/
def Obligations.CurOpenOpensTheWindow : Prop :=
  decode 0x00000001 = .cmd .curOpen ∧
  ∀ s : State,
    (¬ (s.opr.winOff.toNat + s.opr.winLen.toNat ≤ s.opr.bufLen.toNat ∧ s.opr.bufLen.toNat ≤ build.bufSize) →
      exec .curOpen s = .next (s.onlyStatus .badWindow)) ∧
    (s.opr.winOff.toNat + s.opr.winLen.toNat ≤ s.opr.bufLen.toNat → s.opr.bufLen.toNat ≤ build.bufSize →
      exec .curOpen s =
        .next { s with cur := { base := s.opr.winOff, len := s.opr.winLen, pos := 0 }, status := Status.okay })

/-- 40_cursor R101, R102, R103: the reads return the next bytes, most significant first, zero-extended, and move on;
with too few bytes left they fail and consume nothing. The position inside the slice is R110 (a). -/
def Obligations.CursorReadsAreBigEndian : Prop :=
  decode 0x00000002 = .cmd .curRd8 ∧ decode 0x00000003 = .cmd .curRd16 ∧ decode 0x00000004 = .cmd .curRd32 ∧
  ∀ s : State, s.cur.pos.toNat ≤ s.cur.len.toNat →
    let a := s.cur.base.toNat + s.cur.pos.toNat
    let left := s.cur.len.toNat - s.cur.pos.toNat
    (¬ s.cursorInside → exec .curRd8 s = .next (s.onlyStatus .badWindow) ∧
      exec .curRd16 s = .next (s.onlyStatus .badWindow) ∧ exec .curRd32 s = .next (s.onlyStatus .badWindow)) ∧
    (s.cursorInside →
      (1 ≤ left → exec .curRd8 s =
        .next { s with res := { s.res with rval := (0 : BitVec 24) ++ s.byteAt a },
                       cur := { s.cur with pos := s.cur.pos + 1 }, status := Status.okay }) ∧
      (2 ≤ left → exec .curRd16 s =
        .next { s with res := { s.res with rval := (0 : Half) ++ s.byteAt a ++ s.byteAt (a + 1) },
                       cur := { s.cur with pos := s.cur.pos + 2 }, status := Status.okay }) ∧
      (4 ≤ left → exec .curRd32 s =
        .next { s with res := { s.res with rval := s.be32 a },
                       cur := { s.cur with pos := s.cur.pos + 4 }, status := Status.okay }) ∧
      (left < 1 → exec .curRd8 s = .next (s.onlyStatus .unexpectedEof)) ∧
      (left < 2 → exec .curRd16 s = .next (s.onlyStatus .unexpectedEof)) ∧
      (left < 4 → exec .curRd32 s = .next (s.onlyStatus .unexpectedEof)))

/-- 40_cursor R104: `CUR.RDB` answers the slice of the next `OPN` bytes and moves past it, or fails. -/
def Obligations.CurRdbTakesTheNextSlice : Prop :=
  decode 0x00000005 = .cmd .curRdb ∧
  ∀ s : State, s.cur.pos.toNat ≤ s.cur.len.toNat →
    (¬ s.cursorInside → exec .curRdb s = .next (s.onlyStatus .badWindow)) ∧
    (s.cursorInside → s.opr.opn.toNat ≤ s.cur.len.toNat - s.cur.pos.toNat → exec .curRdb s =
      .next { s with res := { s.res with roff := s.cur.base + s.cur.pos, rlen := s.opr.opn },
                     cur := { s.cur with pos := s.cur.pos + s.opr.opn }, status := Status.okay }) ∧
    (s.cursorInside → s.cur.len.toNat - s.cur.pos.toNat < s.opr.opn.toNat →
      exec .curRdb s = .next (s.onlyStatus .unexpectedEof))

/-- 40_cursor R105: `CUR.PEEK` answers the slice of the next `OPN` bytes and leaves the position, or fails. -/
def Obligations.CurPeekConsumesNothing : Prop :=
  decode 0x00000006 = .cmd .curPeek ∧
  ∀ s : State, s.cur.pos.toNat ≤ s.cur.len.toNat →
    (¬ s.cursorInside → exec .curPeek s = .next (s.onlyStatus .badWindow)) ∧
    (s.cursorInside → s.opr.opn.toNat ≤ s.cur.len.toNat - s.cur.pos.toNat → exec .curPeek s =
      .next { s with res := { s.res with roff := s.cur.base + s.cur.pos, rlen := s.opr.opn },
                     status := Status.okay }) ∧
    (s.cursorInside → s.cur.len.toNat - s.cur.pos.toNat < s.opr.opn.toNat →
      exec .curPeek s = .next (s.onlyStatus .unexpectedEof))

/-- 40_cursor R106, R107: `CUR.REM` answers the bytes left; `CUR.SKIP` moves past `OPN` bytes, or fails. Neither makes a
slice check (R108). -/
def Obligations.CurRemAndSkipCountTheBytesLeft : Prop :=
  decode 0x00000007 = .cmd .curRem ∧ decode 0x00000008 = .cmd .curSkip ∧
  ∀ s : State, s.cur.pos.toNat ≤ s.cur.len.toNat →
    exec .curRem s =
      .next { s with res := { s.res with rval := s.cur.len - s.cur.pos }, status := Status.okay } ∧
    (s.opr.opn.toNat ≤ s.cur.len.toNat - s.cur.pos.toNat → exec .curSkip s =
      .next { s with cur := { s.cur with pos := s.cur.pos + s.opr.opn }, status := Status.okay }) ∧
    (s.cur.len.toNat - s.cur.pos.toNat < s.opr.opn.toNat →
      exec .curSkip s = .next (s.onlyStatus .unexpectedEof))

/-- 40_cursor R110: the five laws of the cursor. -/
def Obligations.CursorLaws : Prop :=
  ∀ s : State, s.cur.pos.toNat ≤ s.cur.len.toNat →
    (∀ (i : Instr) (t : State), exec i s = .next t → t.cur.pos.toNat ≤ t.cur.len.toNat) ∧
    (∀ (i : Instr) (t : State), exec i s = .next t → i ≠ .curOpen → i ≠ .clear →
      s.cur.pos.toNat ≤ t.cur.pos.toNat) ∧
    (∀ i ∈ [Instr.curOpen, .curRd8, .curRd16, .curRd32, .curRdb, .curPeek, .curRem, .curSkip], ∀ m : Memory,
      (∀ a, s.cur.base.toNat ≤ a → a < s.cur.base.toNat + s.cur.len.toNat → a < s.opr.bufLen.toNat →
        ({ s with mem := m } : State).byteAt a = s.byteAt a) →
      ∀ t : State, exec i s = .next t → exec i { s with mem := m } = .next { t with mem := m }) ∧
    (∀ t : State, exec .curRd16 s = .next t → t.status.err = false →
      ∃ u v : State, exec .curRd8 s = .next u ∧ exec .curRd8 u = .next v ∧
        t.res.rval.toNat = 256 * u.res.rval.toNat + v.res.rval.toNat ∧ t.cur = v.cur) ∧
    (∀ t : State, exec .curRd32 s = .next t → t.status.err = false →
      ∃ u v x y : State, exec .curRd8 s = .next u ∧ exec .curRd8 u = .next v ∧ exec .curRd8 v = .next x ∧
        exec .curRd8 x = .next y ∧
        t.res.rval.toNat =
          256 * (256 * (256 * u.res.rval.toNat + v.res.rval.toNat) + x.res.rval.toNat) + y.res.rval.toNat ∧
        t.cur = y.cur) ∧
    (∀ t : State, exec .curRdb s = .next t → t.status.err = false →
      ∃ u v : State, exec .curSkip s = .next u ∧ exec .curPeek s = .next v ∧ t.cur = u.cur ∧
        t.res.roff = v.res.roff ∧ t.res.rlen = v.res.rlen)

/-! ### The checksum engine -/

/-- 41_checksum R120: `Fold16` is the loop the spec gives; its closed form; folding after each addition and the order of
the words change nothing. -/
def Obligations.OnesSumFoldsInAnyOrder : Prop :=
  (∀ n : Nat, fold16 n = if n > 0xFFFF then fold16 (n % 0x10000 + n / 0x10000) else n) ∧
  (∀ n : Nat, fold16 n ≤ 0xFFFF ∧ (fold16 n = 0 ↔ n = 0) ∧
    (n ≠ 0 → 1 ≤ fold16 n ∧ fold16 n % 0xFFFF = n % 0xFFFF)) ∧
  (∀ ws : List Half, onesSum16 ws = fold16 (ws.map BitVec.toNat).sum ∧
    onesSum16 ws = ws.foldl (fun acc w => fold16 (acc + w.toNat)) 0) ∧
  ∀ ws vs : List Half, ws.Perm vs → onesSum16 ws = onesSum16 vs

/-- 41_checksum R121: the words of a byte list are counted from its first byte, and an odd last byte is padded with a
zero byte on its right. -/
def Obligations.ChecksumWordsPairTheBytes : Prop :=
  ∀ bs : List Byte, (checksumWords bs).length = (bs.length + 1) / 2 ∧
    ∀ i, i < (bs.length + 1) / 2 → (checksumWords bs)[i]? = some (bs.getD (2 * i) 0 ++ bs.getD (2 * i + 1) 0)

/-- 41_checksum R125, 10_state R23, R28: the words a pseudo-header adds to the sum, and the pseudo-header in the registers,
with `PH_KIND` 0 `NONE`, 1 `V4`, 2 `V6` and none for 3. -/
def Obligations.PseudoHeaderWords : Prop :=
  (∀ ph : PseudoHeader,
    (ph.kind = .none → phWords ph = []) ∧
    (ph.kind = .v4 → phWords ph =
      [ph.src.extractLsb' 16 16, ph.src.extractLsb' 0 16, ph.dst.extractLsb' 16 16, ph.dst.extractLsb' 0 16,
       ph.len.extractLsb' 16 16, ph.len.extractLsb' 0 16, (0 : Byte) ++ ph.proto]) ∧
    (ph.kind = .v6 → phWords ph =
      (List.range 8).map (fun j => ph.src.extractLsb' (112 - 16 * j) 16) ++
      (List.range 8).map (fun j => ph.dst.extractLsb' (112 - 16 * j) 16) ++
      [ph.len.extractLsb' 16 16, ph.len.extractLsb' 0 16, (0 : Byte) ++ ph.proto])) ∧
  ∀ s : State, (s.opr.phKind = 3 → s.pseudoHeader = none) ∧
    ∀ k : PhKind, (s.opr.phKind, k) ∈ [((0 : BitVec 2), PhKind.none), (1, .v4), (2, .v6)] →
    s.pseudoHeader =
      some { kind := k, src := s.opr.phSrc0 ++ s.opr.phSrc1 ++ s.opr.phSrc2 ++ s.opr.phSrc3,
             dst := s.opr.phDst0 ++ s.opr.phDst1 ++ s.opr.phDst2 ++ s.opr.phDst3,
             proto := s.opr.phProto, len := s.opr.phLen }

/-- 41_checksum R130: the five laws of the checksum. -/
def Obligations.ChecksumLaws : Prop :=
  (∀ ws : List Half, (onesSum16 ws = 0 ↔ ∀ w ∈ ws, w = 0) ∧ (inetCsum ws = 0xFFFF ↔ ∀ w ∈ ws, w = 0)) ∧
  (∀ (bs : List Byte) (p : Nat), p % 2 = 0 → p + 2 ≤ bs.length →
    onesSum16 (checksumWords bs) =
      fold16 (onesSum16 (checksumWords (zeroField bs p)) + (storedField bs p).toNat)) ∧
  (∀ (ph : List Half) (bs : List Byte) (p : Nat), p % 2 = 0 → p + 2 ≤ bs.length →
    let computed := inetCsum (ph ++ checksumWords (zeroField bs p))
    (storedField bs p = computed → (∃ w ∈ ph ++ checksumWords (zeroField bs p), w ≠ 0) →
      onesSum16 (ph ++ checksumWords bs) = 0xFFFF) ∧
    (onesSum16 (ph ++ checksumWords bs) = 0xFFFF →
      (storedField bs p ≠ computed ↔ storedField bs p = 0xFFFF ∧ computed = 0))) ∧
  (∀ (ws : List Half) (i : Nat) (v w : Half), ws[i]? = some w →
    ¬ (0xFFFF : Int) ∣ (v.toNat : Int) - w.toNat → inetCsum (ws.set i v) ≠ inetCsum ws) ∧
  (∀ (ph : PseudoHeader) (f g : Nat → Byte) (off n p : Nat),
    (∀ a, off ≤ a → a < off + n → f a = g a) → 
      verifyXport ph f off n p = verifyXport ph g off n p ∧ verifyIp4 f off n = verifyIp4 g off n) ∧
  ∀ (ph : List Half) (bs : List Byte) (k : Nat),
    inetCsum (ph ++ checksumWords (bs ++ List.replicate k 0)) = inetCsum (ph ++ checksumWords bs)

/-- 41_checksum R126: `CSUM.IP4`. -/
def Obligations.CsumIp4VerifiesTheWindow : Prop :=
  decode 0x00000010 = .cmd .csumIp4 ∧
  ∀ s : State, let off := s.opr.winOff.toNat; let n := s.opr.winLen.toNat
    let stored := s.be16 (off + 10)
    let computed := inetCsum (checksumWords (zeroField (bytesFrom s.byteAt off n) 10))
    (¬ (off + n ≤ s.opr.bufLen.toNat ∧ s.opr.bufLen.toNat ≤ build.bufSize) →
      exec .csumIp4 s = .next (s.onlyStatus .badWindow)) ∧
    (off + n ≤ s.opr.bufLen.toNat → s.opr.bufLen.toNat ≤ build.bufSize → n < 12 →
      exec .csumIp4 s = .next (s.onlyStatus .unexpectedEof)) ∧
    (off + n ≤ s.opr.bufLen.toNat → s.opr.bufLen.toNat ≤ build.bufSize → 12 ≤ n →
      exec .csumIp4 s =
        .next { s with res := { s.res with rval := if stored = computed then 1 else 0, computed := computed,
                                           stored := stored },
                       status := Status.okay })

/-- 41_checksum R129: `CSUM.XPORT`, with the field's position fixed by the selector. -/
def Obligations.CsumXportVerifiesTheWindow : Prop :=
  decode 0x00000011 = .cmd (.csumXport .tcp) ∧ decode 0x00000111 = .cmd (.csumXport .udp) ∧
  decode 0x00000211 = .cmd (.csumXport .icmp) ∧
  ∀ (s : State) (x : Xport) (p : Nat), (x, p) ∈ [(Xport.tcp, 16), (Xport.udp, 6), (Xport.icmp, 2)] →
    let off := s.opr.winOff.toNat; let n := s.opr.winLen.toNat
    (s.opr.phKind = 3 → exec (.csumXport x) s = .next (s.onlyStatus .illegalCommand)) ∧
    ∀ ph : PseudoHeader, s.pseudoHeader = some ph →
      let stored := s.be16 (off + p)
      let computed := inetCsum (phWords ph ++ checksumWords (zeroField (bytesFrom s.byteAt off n) p))
      (¬ (off + n ≤ s.opr.bufLen.toNat ∧ s.opr.bufLen.toNat ≤ build.bufSize) →
        exec (.csumXport x) s = .next (s.onlyStatus .badWindow)) ∧
      (off + n ≤ s.opr.bufLen.toNat → s.opr.bufLen.toNat ≤ build.bufSize → n < p + 2 →
        exec (.csumXport x) s = .next (s.onlyStatus .unexpectedEof)) ∧
      (off + n ≤ s.opr.bufLen.toNat → s.opr.bufLen.toNat ≤ build.bufSize → p + 2 ≤ n →
        exec (.csumXport x) s =
          .next { s with res := { s.res with rval := if stored = computed then 1 else 0, computed := computed,
                                             stored := stored },
                         status := Status.okay })

/-! ### The shallow parsers -/

/-- 42_parsers_link_net R142, R143: an Ethernet frame long enough for its header, and with `FCS_EN` for the minimum,
is decoded field by field; a failing test leaves no valid slot. -/
def Obligations.ParseEthDecodesTheFrame : Prop :=
  ∀ s : State, s.windowInside →
    let off := s.opr.winOff.toNat; let len := s.opr.winLen.toNat
    ((s.opr.fcsEn = true → 64 ≤ len) → 14 ≤ len → (s.be16 (off + 12) = 0x8100 → 18 ≤ len) →
      exec .parseEth s = .next (s.parseDone (s.ethRecord build off len))) ∧
    (s.opr.fcsEn = true → len < 64 → exec .parseEth s = .next (s.parseFailed .malformedPacket)) ∧
    (s.opr.fcsEn = false → len < 14 → exec .parseEth s = .next (s.parseFailed .unexpectedEof)) ∧
    (s.opr.fcsEn = false → 14 ≤ len → s.be16 (off + 12) = 0x8100 → len < 18 →
      exec .parseEth s = .next (s.parseFailed .unexpectedEof))

/-- 42_parsers_link_net R145, R146. -/
def Obligations.ParseVlanDecodesTheTag : Prop :=
  ∀ s : State, s.windowInside →
    let off := s.opr.winOff.toNat; let len := s.opr.winLen.toNat
    (4 ≤ len → exec .parseVlan s = .next (s.parseDone (s.vlanRecord off len))) ∧
    (len < 4 → exec .parseVlan s = .next (s.parseFailed .unexpectedEof))

/-- 42_parsers_link_net R148, R149, R150: an IPv4 header that passes its tests is decoded field by field; the tests fail
in their order. -/
def Obligations.ParseIp4DecodesTheHeader : Prop :=
  ∀ s : State, s.windowInside →
    let off := s.opr.winOff.toNat; let len := s.opr.winLen.toNat
    (s.version off = 4 → 5 ≤ s.ihl off → 4 * s.ihl off ≤ len →
      (s.opr.strict = true → s.checksumHolds PseudoHeader.absent off (4 * s.ihl off) 10 = true) →
      exec .parseIp4 s = .next (s.parseDone (s.ip4Record off len))) ∧
    (len = 0 → exec .parseIp4 s = .next (s.parseFailed .unexpectedEof)) ∧
    (0 < len → s.version off ≠ 4 → exec .parseIp4 s = .next (s.parseFailed .invalidVersion)) ∧
    (0 < len → s.version off = 4 → s.ihl off < 5 → exec .parseIp4 s = .next (s.parseFailed .headerTooShort)) ∧
    (0 < len → s.version off = 4 → 5 ≤ s.ihl off → len < 4 * s.ihl off →
      exec .parseIp4 s = .next (s.parseFailed .truncatedPacket)) ∧
    (s.version off = 4 → 5 ≤ s.ihl off → 4 * s.ihl off ≤ len → s.opr.strict = true →
      s.checksumHolds PseudoHeader.absent off (4 * s.ihl off) 10 = false →
      exec .parseIp4 s = .next (s.parseFailed .checksumMismatch))

/-- 42_parsers_link_net R155, R157, R156. -/
def Obligations.ParseIp6DecodesTheHeader : Prop :=
  ∀ s : State, s.windowInside →
    let off := s.opr.winOff.toNat; let len := s.opr.winLen.toNat
    (s.version off = 6 → 40 ≤ len → exec .parseIp6 s = .next (s.parseDone (s.ip6Record off len))) ∧
    (len = 0 → exec .parseIp6 s = .next (s.parseFailed .unexpectedEof)) ∧
    (0 < len → s.version off ≠ 6 → exec .parseIp6 s = .next (s.parseFailed .invalidVersion)) ∧
    (0 < len → s.version off = 6 → len < 40 → exec .parseIp6 s = .next (s.parseFailed .unexpectedEof))

/-- 43_parsers_transport R172, R173, R171. -/
def Obligations.ParseTcpDecodesTheHeader : Prop :=
  ∀ (s : State) (ph : PseudoHeader), s.windowInside → s.pseudoHeader = some ph →
    let off := s.opr.winOff.toNat; let len := s.opr.winLen.toNat
    (20 ≤ len → 5 ≤ s.doff off → 4 * s.doff off ≤ len →
      (s.opr.strict = true → s.checksumHolds ph off len 16 = true) →
      exec .parseTcp s = .next (s.parseDone (s.tcpRecord off len ph))) ∧
    (len < 20 → exec .parseTcp s = .next (s.parseFailed .unexpectedEof)) ∧
    (20 ≤ len → s.doff off < 5 → exec .parseTcp s = .next (s.parseFailed .headerTooShort)) ∧
    (20 ≤ len → len < 4 * s.doff off → exec .parseTcp s = .next (s.parseFailed .truncatedPacket)) ∧
    (20 ≤ len → 5 ≤ s.doff off → 4 * s.doff off ≤ len → s.opr.strict = true →
      s.checksumHolds ph off len 16 = false → exec .parseTcp s = .next (s.parseFailed .checksumMismatch))

/-- 43_parsers_transport R177, R178, R176: in lenient mode a length or checksum mismatch is a flag of the record; in
strict mode it fails, the length first. -/
def Obligations.ParseUdpDecodesTheHeader : Prop :=
  ∀ (s : State) (ph : PseudoHeader), s.windowInside → s.pseudoHeader = some ph →
    let off := s.opr.winOff.toNat; let len := s.opr.winLen.toNat
    (8 ≤ len →
      (s.opr.strict = true → (s.be16 (off + 4)).toNat = len ∧ s.checksumHolds ph off len 6 = true) →
      exec .parseUdp s = .next (s.parseDone (s.udpRecord off len ph))) ∧
    (len < 8 → exec .parseUdp s = .next (s.parseFailed .unexpectedEof)) ∧
    (8 ≤ len → s.opr.strict = true → (s.be16 (off + 4)).toNat ≠ len →
      exec .parseUdp s = .next (s.parseFailed .malformedPacket)) ∧
    (8 ≤ len → s.opr.strict = true → (s.be16 (off + 4)).toNat = len → s.checksumHolds ph off len 6 = false →
      exec .parseUdp s = .next (s.parseFailed .checksumMismatch))

/-- 43_parsers_transport R182, R183, R181. -/
def Obligations.ParseIcmpDecodesTheHeader : Prop :=
  ∀ (s : State) (ph : PseudoHeader), s.windowInside → s.pseudoHeader = some ph →
    let off := s.opr.winOff.toNat; let len := s.opr.winLen.toNat
    (4 ≤ len → (s.opr.strict = true → s.checksumHolds ph off len 2 = true) →
      exec .parseIcmp s = .next (s.parseDone (s.icmpRecord off len ph))) ∧
    (len < 4 → exec .parseIcmp s = .next (s.parseFailed .unexpectedEof)) ∧
    (4 ≤ len → s.opr.strict = true → s.checksumHolds ph off len 2 = false →
      exec .parseIcmp s = .next (s.parseFailed .checksumMismatch))

/-! ### The dispatcher and the deep-parse sequencer -/

/-- 44_dispatch_deep R191, R192: the lookup of an EtherType in the default table. -/
def Obligations.DispEtypeLooksUpTheTable : Prop :=
  decode 0x00000030 = .cmd .dispEtype ∧
  ∀ s : State,
    let k := if s.opr.pid = 0x0800 then Kind.ip4 else if s.opr.pid = 0x86DD then Kind.ip6
      else if s.opr.pid = 0x8100 then Kind.vlan else Kind.none
    exec .dispEtype s =
      .next { s with res := { s.res with next := k },
                     status := { err := false, code := if k = .none then .unsupportedProtocol else .ok,
                                 layer := 0 } }

/-- 44_dispatch_deep R191, R193: the lookup of an IP protocol number in the default table; `PID[15:8]` is ignored. -/
def Obligations.DispIpprotoLooksUpTheTable : Prop :=
  decode 0x00000031 = .cmd .dispIpproto ∧
  ∀ s : State,
    let v := s.opr.pid.toNat % 256
    let k := if v = 1 ∨ v = 58 then Kind.icmp else if v = 6 then Kind.tcp else if v = 17 then Kind.udp
      else Kind.none
    exec .dispIpproto s =
      .next { s with res := { s.res with next := k },
                     status := { err := false, code := if k = .none then .unsupportedProtocol else .ok,
                                 layer := 0 } }

/-- 44_dispatch_deep R200: `DEEP.START`. -/
def Obligations.DeepStartOpensTheParse : Prop :=
  ∀ (s : State) (k : Kind), k ≠ .none →
    decode (0x00000038 ||| (k.code.setWidth 32 <<< 8)) = .cmd (.deepStart k) ∧
    (¬ s.windowInside → exec (.deepStart k) s = .next (s.onlyStatus .badWindow)) ∧
    (s.windowInside → exec (.deepStart k) s =
      .next { s with layers := [],
                     dp := { state := .parsing, next := k, off := s.opr.winOff, len := s.opr.winLen, opqOff := 0,
                             opqLen := 0 },
                     status := Status.okay })

/-- 44_dispatch_deep R201: one `ParsingLayer(k)` transition: the three checks, the parser's failure, and the decoded
layer with the next parser selected or the parse terminated. The next parser is the dispatcher's (R190), which asks the
build's tables; those of the default build (R191) are written out. -/
def Obligations.DeepStepIsOneTransition : Prop :=
  decode 0x00000039 = .cmd .deepStep ∧
  (∀ P : Params, dispatch P .none = .none ∧ (∀ v : Half, dispatch P (.etype v) = P.etypeTable v) ∧
    ∀ v : Byte, dispatch P (.ipproto v) = P.ipprotoTable v) ∧
  (∀ v : Half, dispatch build (.etype v) =
    if v = 0x0800 then .ip4 else if v = 0x86DD then .ip6 else if v = 0x8100 then .vlan else .none) ∧
  (∀ v : Byte, dispatch build (.ipproto v) =
    if v = 1 ∨ v = 58 then .icmp else if v = 6 then .tcp else if v = 17 then .udp else .none) ∧
  ∀ s : State,
    let off := s.dp.off.toNat; let len := s.dp.len.toNat; let k := s.layers.length
    let ph := deepPh s.layers s.dp.next len
    (s.dp.state ≠ .parsing → exec .deepStep s = .next (s.onlyStatus .badState)) ∧
    (s.dp.state = .parsing → ¬ (off + len ≤ s.opr.bufLen.toNat ∧ s.opr.bufLen.toNat ≤ build.bufSize) →
      exec .deepStep s = .next (s.onlyStatus .badWindow)) ∧
    (s.deepReady → build.maxDepth ≤ k → exec .deepStep s = .next (s.deepFailed .maxDepthExceeded)) ∧
    (s.deepReady → k < build.maxDepth → ∀ code : Code, s.firstFailure build s.dp.next off len ph = some code →
      exec .deepStep s = .next (s.deepFailed code)) ∧
    (s.deepReady → k < build.maxDepth → s.firstFailure build s.dp.next off len ph = none →
      ∀ rec : LayerRec, s.layerRecord build s.dp.next off len ph = some rec →
        (dispatch build rec.ind ≠ .none → exec .deepStep s =
          .next { s with layers := s.layers ++ [rec],
                         dp := { s.dp with next := dispatch build rec.ind, off := rec.payOff, len := rec.payLen },
                         status := { err := false, code := .ok, layer := BitVec.ofNat 8 (k + 1) } }) ∧
        (dispatch build rec.ind = .none → exec .deepStep s =
          .next { s with layers := s.layers ++ [rec],
                         dp := { state := .terminated, next := .none, off := rec.payOff, len := rec.payLen,
                                 opqOff := rec.payOff, opqLen := rec.payLen },
                         status := { err := false,
                                     code := if rec.ind = .none then .ok else .unsupportedProtocol,
                                     layer := BitVec.ofNat 8 (k + 1) } }))

/-- 44_dispatch_deep R204: the pseudo-header of a deep parse comes from the layer just below, never from the
pseudo-header registers. -/
def Obligations.DeepPseudoHeaderComesFromTheLayerBelow : Prop :=
  ∀ (below : List LayerRec) (e : LayerRec) (kind : Kind) (len : Nat),
    deepPh [] kind len = { kind := .none, src := 0, dst := 0, proto := 0, len := 0 } ∧
    (∀ f : Ip4Fields, e.body = .ip4 f →
      deepPh (below ++ [e]) .icmp len = { kind := .none, src := 0, dst := 0, proto := 0, len := 0 } ∧
      (kind ≠ .icmp → deepPh (below ++ [e]) kind len =
        { kind := .v4, src := f.src.setWidth 128, dst := f.dst.setWidth 128, proto := f.protocol,
          len := BitVec.ofNat 32 len })) ∧
    (∀ f : Ip6Fields, e.body = .ip6 f → deepPh (below ++ [e]) kind len =
      { kind := .v6, src := f.src, dst := f.dst, proto := f.nextHeader, len := BitVec.ofNat 32 len }) ∧
    (e.kind ≠ .ip4 → e.kind ≠ .ip6 →
      deepPh (below ++ [e]) kind len = { kind := .none, src := 0, dst := 0, proto := 0, len := 0 })

/-- 44_dispatch_deep R207: `DEEP.RUN` is a sequence of `DEEP.STEP` commands, at most `MAX_DEPTH + 1`, up to the first
terminal state; outside `PARSING` and on a slice outside the buffer it fails as `DEEP.STEP` does. -/
def Obligations.DeepRunIsASequenceOfSteps : Prop :=
  decode 0x0000003A = .cmd .deepRun ∧
  ∀ s : State,
    (s.dp.state ≠ .parsing → exec .deepRun s = .next (s.onlyStatus .badState)) ∧
    (s.dp.state = .parsing →
      ¬ (s.dp.off.toNat + s.dp.len.toNat ≤ s.opr.bufLen.toNat ∧ s.opr.bufLen.toNat ≤ build.bufSize) →
      exec .deepRun s = .next (s.onlyStatus .badWindow)) ∧
    (s.deepReady →
      ∃ (n : Nat) (t : State), n ≤ build.maxDepth ∧ exec .deepRun s = .next t ∧
        deepSteps (n + 1) s = .next t ∧ (t.dp.state = .terminated ∨ t.dp.state = .failed) ∧
        ∀ m, m ≤ n → ∃ u : State, deepSteps m s = .next u ∧ u.dp.state = .parsing)

/-- 44_dispatch_deep R205, R209: `DEEP.RUN` keeps the layers already decoded and appends layers each decoded from the
payload slice of the one before, all inside the slice it started on; it ends terminated, the last layer's payload the
opaque one, or failed, at layer `NLAYERS`. -/
def Obligations.DeepRunKeepsAndNestsItsLayers : Prop :=
  ∀ s : State, s.deepReady →
    ∃ (t : State) (new : List LayerRec), exec .deepRun s = .next t ∧ t.layers = s.layers ++ new ∧
      (∀ r, new.head? = some r → r.kind = s.dp.next ∧ r.hdrOff = s.dp.off) ∧
      new.IsChain (LayerRec.Follows build) ∧
      (∀ r ∈ new, s.dp.off.toNat ≤ r.hdrOff.toNat ∧
        r.hdrOff.toNat + r.hdrLen.toNat = r.payOff.toNat ∧
        r.payOff.toNat + r.payLen.toNat ≤ s.dp.off.toNat + s.dp.len.toNat) ∧
      t.status.layer = BitVec.ofNat 8 t.layers.length ∧
      ((t.dp.state = .terminated ∧ t.status.err = false ∧
          ∃ r, new.getLast? = some r ∧ t.dp.opqOff = r.payOff ∧ t.dp.opqLen = r.payLen ∧
            (t.status.code = .ok ↔ r.ind = .none)) ∨
        (t.dp.state = .failed ∧ t.status.err = true ∧ t.dp.opqOff = s.dp.opqOff ∧ t.dp.opqLen = s.dp.opqLen))

/-- 44_dispatch_deep R209 (e): a whole deep parse is a function of the window's bytes, the kind and `CFG` alone. -/
def Obligations.DeepParseDependsOnlyOnTheWindow : Prop :=
  ∀ (s u : State) (k : Kind), k ≠ .none → s.windowInside → u.windowInside →
    u.opr.winOff = s.opr.winOff → u.opr.winLen = s.opr.winLen →
    u.opr.fcsEn = s.opr.fcsEn → u.opr.strict = s.opr.strict →
    (∀ a, s.opr.winOff.toNat ≤ a → a < s.opr.winOff.toNat + s.opr.winLen.toNat → u.byteAt a = s.byteAt a) →
    ∃ s₁ u₁ t v : State, exec (.deepStart k) s = .next s₁ ∧ exec (.deepStart k) u = .next u₁ ∧
      exec .deepRun s₁ = .next t ∧ exec .deepRun u₁ = .next v ∧
      v.layers = t.layers ∧ v.dp = t.dp ∧ v.status = t.status

/-- 00_scope R6, 44_dispatch_deep R203: in every build whose EtherType table sends `TPID` to the tag stage, a frame of
1000 nested tags ends with `MaxDepthExceeded` and `MAX_DEPTH` decoded layers. -/
def Obligations.NestedTagsExceedTheDepthBound : Prop :=
  ∀ (P : Params) (s : State), P.Admissible → P.etypeTable P.tpid = .vlan →
    let off := s.opr.winOff.toNat; let len := s.opr.winLen.toNat
    s.windowOk P → (s.opr.fcsEn = true → P.ethMinFrame ≤ len) → 4014 ≤ len →
    (∀ j, j < 1000 → s.be16 (off + 12 + 4 * j) = P.tpid) →
    ∃ t : State, deepRunCmd P (deepStartCmd P .eth s) = some t ∧
      t.status = { err := true, code := .maxDepthExceeded, layer := BitVec.ofNat 8 P.maxDepth } ∧
      t.layers.length = P.maxDepth ∧ t.dp.state = .failed

/-- 44_dispatch_deep R194, R191, 42_parsers_link_net R157: a deep parse ends normally at an IPv6 layer whose next header
is an extension header; the rest is the opaque payload. Stated of every number that the default table maps to no parser,
so it rests on no choice of which numbers name extension headers (log 22). -/
def Obligations.ExtensionHeadersEndTheParse : Prop :=
  ∀ s : State, s.deepReady → s.layers.length < build.maxDepth → s.dp.next = .ip6 →
    let off := s.dp.off.toNat; let len := s.dp.len.toNat
    40 ≤ len → s.version off = 6 → s.byteAt (off + 6) ∉ [1, 6, 17, 58] →
    exec .deepStep s =
      .next { s with layers := s.layers ++ [s.ip6Record off len],
                     dp := { state := .terminated, next := .none,
                             off := s.dp.off + 40, len := s.dp.len - 40,
                             opqOff := s.dp.off + 40, opqLen := s.dp.len - 40 },
                     status := { err := false, code := .unsupportedProtocol,
                                 layer := BitVec.ofNat 8 (s.layers.length + 1) } }

/-! ### System commands -/

/-- 45_system R220. -/
def Obligations.NopWritesOnlyStatus : Prop :=
  decode 0x00000000 = .cmd .nop ∧
  ∀ s : State, exec .nop s = .next { s with status := { err := false, code := .ok, layer := 0 } }

/-- 45_system R222. -/
def Obligations.ClearDropsEveryResult : Prop :=
  decode 0x0000007F = .cmd .clear ∧
  ∀ s : State, exec .clear s =
    .next { s with cur := { base := 0, len := 0, pos := 0 },
                   dp := { state := .idle, next := .none, off := 0, len := 0, opqOff := 0, opqLen := 0 },
                   layers := [],
                   res := { rval := 0, roff := 0, rlen := 0, computed := 0, stored := 0, next := .none },
                   status := { err := false, code := .ok, layer := 0 } }

end
end

