-- ==== Sys2Proof/Laws/State.lean ====
section
/-! SUPPORT. One lemma per field per register update, true by definition, so that no proof unfolds a record
update. -/

namespace Sys2Proof.Machine

/-! ### `setMem` -/

@[simp] theorem State.setMem_mem (s : State) (m : Memory) : (s.setMem m).mem = m := rfl
@[simp] theorem State.setMem_opr (s : State) (m : Memory) : (s.setMem m).opr = s.opr := rfl
@[simp] theorem State.setMem_status (s : State) (m : Memory) : (s.setMem m).status = s.status := rfl
@[simp] theorem State.setMem_res (s : State) (m : Memory) : (s.setMem m).res = s.res := rfl
@[simp] theorem State.setMem_cur (s : State) (m : Memory) : (s.setMem m).cur = s.cur := rfl
@[simp] theorem State.setMem_dp (s : State) (m : Memory) : (s.setMem m).dp = s.dp := rfl
@[simp] theorem State.setMem_layers (s : State) (m : Memory) : (s.setMem m).layers = s.layers := rfl
@[simp] theorem State.setMem_hostOps (s : State) (m : Memory) : (s.setMem m).hostOps = s.hostOps := rfl
@[simp] theorem State.setMem_readData (s : State) (m : Memory) : (s.setMem m).readData = s.readData := rfl
@[simp] theorem State.setMem_reads (s : State) (m : Memory) : (s.setMem m).reads = s.reads := rfl
@[simp] theorem State.setMem_resets (s : State) (m : Memory) : (s.setMem m).resets = s.resets := rfl

/-! ### `setOpr` -/

@[simp] theorem State.setOpr_mem (s : State) (o : Operands) : (s.setOpr o).mem = s.mem := rfl
@[simp] theorem State.setOpr_opr (s : State) (o : Operands) : (s.setOpr o).opr = o := rfl
@[simp] theorem State.setOpr_status (s : State) (o : Operands) : (s.setOpr o).status = s.status := rfl
@[simp] theorem State.setOpr_res (s : State) (o : Operands) : (s.setOpr o).res = s.res := rfl
@[simp] theorem State.setOpr_cur (s : State) (o : Operands) : (s.setOpr o).cur = s.cur := rfl
@[simp] theorem State.setOpr_dp (s : State) (o : Operands) : (s.setOpr o).dp = s.dp := rfl
@[simp] theorem State.setOpr_layers (s : State) (o : Operands) : (s.setOpr o).layers = s.layers := rfl
@[simp] theorem State.setOpr_hostOps (s : State) (o : Operands) : (s.setOpr o).hostOps = s.hostOps := rfl
@[simp] theorem State.setOpr_readData (s : State) (o : Operands) : (s.setOpr o).readData = s.readData := rfl
@[simp] theorem State.setOpr_reads (s : State) (o : Operands) : (s.setOpr o).reads = s.reads := rfl
@[simp] theorem State.setOpr_resets (s : State) (o : Operands) : (s.setOpr o).resets = s.resets := rfl

/-! ### `setStatus` -/

@[simp] theorem State.setStatus_mem (s : State) (st : Status) : (s.setStatus st).mem = s.mem := rfl
@[simp] theorem State.setStatus_opr (s : State) (st : Status) : (s.setStatus st).opr = s.opr := rfl
@[simp] theorem State.setStatus_status (s : State) (st : Status) : (s.setStatus st).status = st := rfl
@[simp] theorem State.setStatus_res (s : State) (st : Status) : (s.setStatus st).res = s.res := rfl
@[simp] theorem State.setStatus_cur (s : State) (st : Status) : (s.setStatus st).cur = s.cur := rfl
@[simp] theorem State.setStatus_dp (s : State) (st : Status) : (s.setStatus st).dp = s.dp := rfl
@[simp] theorem State.setStatus_layers (s : State) (st : Status) : (s.setStatus st).layers = s.layers := rfl
@[simp] theorem State.setStatus_hostOps (s : State) (st : Status) : (s.setStatus st).hostOps = s.hostOps := rfl
@[simp] theorem State.setStatus_readData (s : State) (st : Status) : (s.setStatus st).readData = s.readData := rfl
@[simp] theorem State.setStatus_reads (s : State) (st : Status) : (s.setStatus st).reads = s.reads := rfl
@[simp] theorem State.setStatus_resets (s : State) (st : Status) : (s.setStatus st).resets = s.resets := rfl

/-! ### `setRes` -/

@[simp] theorem State.setRes_mem (s : State) (r : Results) : (s.setRes r).mem = s.mem := rfl
@[simp] theorem State.setRes_opr (s : State) (r : Results) : (s.setRes r).opr = s.opr := rfl
@[simp] theorem State.setRes_status (s : State) (r : Results) : (s.setRes r).status = s.status := rfl
@[simp] theorem State.setRes_res (s : State) (r : Results) : (s.setRes r).res = r := rfl
@[simp] theorem State.setRes_cur (s : State) (r : Results) : (s.setRes r).cur = s.cur := rfl
@[simp] theorem State.setRes_dp (s : State) (r : Results) : (s.setRes r).dp = s.dp := rfl
@[simp] theorem State.setRes_layers (s : State) (r : Results) : (s.setRes r).layers = s.layers := rfl
@[simp] theorem State.setRes_hostOps (s : State) (r : Results) : (s.setRes r).hostOps = s.hostOps := rfl
@[simp] theorem State.setRes_readData (s : State) (r : Results) : (s.setRes r).readData = s.readData := rfl
@[simp] theorem State.setRes_reads (s : State) (r : Results) : (s.setRes r).reads = s.reads := rfl
@[simp] theorem State.setRes_resets (s : State) (r : Results) : (s.setRes r).resets = s.resets := rfl

/-! ### `setCur` -/

@[simp] theorem State.setCur_mem (s : State) (c : CursorRegs) : (s.setCur c).mem = s.mem := rfl
@[simp] theorem State.setCur_opr (s : State) (c : CursorRegs) : (s.setCur c).opr = s.opr := rfl
@[simp] theorem State.setCur_status (s : State) (c : CursorRegs) : (s.setCur c).status = s.status := rfl
@[simp] theorem State.setCur_res (s : State) (c : CursorRegs) : (s.setCur c).res = s.res := rfl
@[simp] theorem State.setCur_cur (s : State) (c : CursorRegs) : (s.setCur c).cur = c := rfl
@[simp] theorem State.setCur_dp (s : State) (c : CursorRegs) : (s.setCur c).dp = s.dp := rfl
@[simp] theorem State.setCur_layers (s : State) (c : CursorRegs) : (s.setCur c).layers = s.layers := rfl
@[simp] theorem State.setCur_hostOps (s : State) (c : CursorRegs) : (s.setCur c).hostOps = s.hostOps := rfl
@[simp] theorem State.setCur_readData (s : State) (c : CursorRegs) : (s.setCur c).readData = s.readData := rfl
@[simp] theorem State.setCur_reads (s : State) (c : CursorRegs) : (s.setCur c).reads = s.reads := rfl
@[simp] theorem State.setCur_resets (s : State) (c : CursorRegs) : (s.setCur c).resets = s.resets := rfl

/-! ### `setDp` -/

@[simp] theorem State.setDp_mem (s : State) (d : Sequencer) : (s.setDp d).mem = s.mem := rfl
@[simp] theorem State.setDp_opr (s : State) (d : Sequencer) : (s.setDp d).opr = s.opr := rfl
@[simp] theorem State.setDp_status (s : State) (d : Sequencer) : (s.setDp d).status = s.status := rfl
@[simp] theorem State.setDp_res (s : State) (d : Sequencer) : (s.setDp d).res = s.res := rfl
@[simp] theorem State.setDp_cur (s : State) (d : Sequencer) : (s.setDp d).cur = s.cur := rfl
@[simp] theorem State.setDp_dp (s : State) (d : Sequencer) : (s.setDp d).dp = d := rfl
@[simp] theorem State.setDp_layers (s : State) (d : Sequencer) : (s.setDp d).layers = s.layers := rfl
@[simp] theorem State.setDp_hostOps (s : State) (d : Sequencer) : (s.setDp d).hostOps = s.hostOps := rfl
@[simp] theorem State.setDp_readData (s : State) (d : Sequencer) : (s.setDp d).readData = s.readData := rfl
@[simp] theorem State.setDp_reads (s : State) (d : Sequencer) : (s.setDp d).reads = s.reads := rfl
@[simp] theorem State.setDp_resets (s : State) (d : Sequencer) : (s.setDp d).resets = s.resets := rfl

/-! ### `setLayers` -/

@[simp] theorem State.setLayers_mem (s : State) (ls : List LayerRec) : (s.setLayers ls).mem = s.mem := rfl
@[simp] theorem State.setLayers_opr (s : State) (ls : List LayerRec) : (s.setLayers ls).opr = s.opr := rfl
@[simp] theorem State.setLayers_status (s : State) (ls : List LayerRec) : (s.setLayers ls).status = s.status := rfl
@[simp] theorem State.setLayers_res (s : State) (ls : List LayerRec) : (s.setLayers ls).res = s.res := rfl
@[simp] theorem State.setLayers_cur (s : State) (ls : List LayerRec) : (s.setLayers ls).cur = s.cur := rfl
@[simp] theorem State.setLayers_dp (s : State) (ls : List LayerRec) : (s.setLayers ls).dp = s.dp := rfl
@[simp] theorem State.setLayers_layers (s : State) (ls : List LayerRec) : (s.setLayers ls).layers = ls := rfl
@[simp] theorem State.setLayers_hostOps (s : State) (ls : List LayerRec) : (s.setLayers ls).hostOps = s.hostOps := rfl
@[simp] theorem State.setLayers_readData (s : State) (ls : List LayerRec) : (s.setLayers ls).readData = s.readData := rfl
@[simp] theorem State.setLayers_reads (s : State) (ls : List LayerRec) : (s.setLayers ls).reads = s.reads := rfl
@[simp] theorem State.setLayers_resets (s : State) (ls : List LayerRec) : (s.setLayers ls).resets = s.resets := rfl

/-! ### `setHostOps` -/

@[simp] theorem State.setHostOps_mem (s : State) (ops : List HostOp) : (s.setHostOps ops).mem = s.mem := rfl
@[simp] theorem State.setHostOps_opr (s : State) (ops : List HostOp) : (s.setHostOps ops).opr = s.opr := rfl
@[simp] theorem State.setHostOps_status (s : State) (ops : List HostOp) : (s.setHostOps ops).status = s.status := rfl
@[simp] theorem State.setHostOps_res (s : State) (ops : List HostOp) : (s.setHostOps ops).res = s.res := rfl
@[simp] theorem State.setHostOps_cur (s : State) (ops : List HostOp) : (s.setHostOps ops).cur = s.cur := rfl
@[simp] theorem State.setHostOps_dp (s : State) (ops : List HostOp) : (s.setHostOps ops).dp = s.dp := rfl
@[simp] theorem State.setHostOps_layers (s : State) (ops : List HostOp) : (s.setHostOps ops).layers = s.layers := rfl
@[simp] theorem State.setHostOps_hostOps (s : State) (ops : List HostOp) : (s.setHostOps ops).hostOps = ops := rfl
@[simp] theorem State.setHostOps_readData (s : State) (ops : List HostOp) : (s.setHostOps ops).readData = s.readData := rfl
@[simp] theorem State.setHostOps_reads (s : State) (ops : List HostOp) : (s.setHostOps ops).reads = s.reads := rfl
@[simp] theorem State.setHostOps_resets (s : State) (ops : List HostOp) : (s.setHostOps ops).resets = s.resets := rfl

/-! ### `setReadData` -/

@[simp] theorem State.setReadData_mem (s : State) (d : Word) : (s.setReadData d).mem = s.mem := rfl
@[simp] theorem State.setReadData_opr (s : State) (d : Word) : (s.setReadData d).opr = s.opr := rfl
@[simp] theorem State.setReadData_status (s : State) (d : Word) : (s.setReadData d).status = s.status := rfl
@[simp] theorem State.setReadData_res (s : State) (d : Word) : (s.setReadData d).res = s.res := rfl
@[simp] theorem State.setReadData_cur (s : State) (d : Word) : (s.setReadData d).cur = s.cur := rfl
@[simp] theorem State.setReadData_dp (s : State) (d : Word) : (s.setReadData d).dp = s.dp := rfl
@[simp] theorem State.setReadData_layers (s : State) (d : Word) : (s.setReadData d).layers = s.layers := rfl
@[simp] theorem State.setReadData_hostOps (s : State) (d : Word) : (s.setReadData d).hostOps = s.hostOps := rfl
@[simp] theorem State.setReadData_readData (s : State) (d : Word) : (s.setReadData d).readData = d := rfl
@[simp] theorem State.setReadData_reads (s : State) (d : Word) : (s.setReadData d).reads = s.reads + 1 := rfl
@[simp] theorem State.setReadData_resets (s : State) (d : Word) : (s.setReadData d).resets = s.resets := rfl

/-! ### The two outcomes of a command -/

@[simp] theorem State.succeed_mem (s : State) : s.succeed.mem = s.mem := rfl
@[simp] theorem State.succeed_opr (s : State) : s.succeed.opr = s.opr := rfl
@[simp] theorem State.succeed_status (s : State) : s.succeed.status = Status.okay := rfl
@[simp] theorem State.succeed_res (s : State) : s.succeed.res = s.res := rfl
@[simp] theorem State.succeed_cur (s : State) : s.succeed.cur = s.cur := rfl
@[simp] theorem State.succeed_dp (s : State) : s.succeed.dp = s.dp := rfl
@[simp] theorem State.succeed_layers (s : State) : s.succeed.layers = s.layers := rfl
@[simp] theorem State.succeed_hostOps (s : State) : s.succeed.hostOps = s.hostOps := rfl
@[simp] theorem State.succeed_readData (s : State) : s.succeed.readData = s.readData := rfl
@[simp] theorem State.succeed_reads (s : State) : s.succeed.reads = s.reads := rfl
@[simp] theorem State.succeed_resets (s : State) : s.succeed.resets = s.resets := rfl
@[simp] theorem State.fail_mem (s : State) (code : Code) (k : Nat) :
    (s.fail code k).mem = s.mem := rfl
@[simp] theorem State.fail_opr (s : State) (code : Code) (k : Nat) :
    (s.fail code k).opr = s.opr := rfl
@[simp] theorem State.fail_status (s : State) (code : Code) (k : Nat) :
    (s.fail code k).status = { err := true, code := code, layer := BitVec.ofNat 8 k } := rfl
@[simp] theorem State.fail_res (s : State) (code : Code) (k : Nat) :
    (s.fail code k).res = s.res := rfl
@[simp] theorem State.fail_cur (s : State) (code : Code) (k : Nat) :
    (s.fail code k).cur = s.cur := rfl
@[simp] theorem State.fail_dp (s : State) (code : Code) (k : Nat) :
    (s.fail code k).dp = s.dp := rfl
@[simp] theorem State.fail_layers (s : State) (code : Code) (k : Nat) :
    (s.fail code k).layers = s.layers := rfl
@[simp] theorem State.fail_hostOps (s : State) (code : Code) (k : Nat) :
    (s.fail code k).hostOps = s.hostOps := rfl
@[simp] theorem State.fail_readData (s : State) (code : Code) (k : Nat) :
    (s.fail code k).readData = s.readData := rfl
@[simp] theorem State.fail_reads (s : State) (code : Code) (k : Nat) :
    (s.fail code k).reads = s.reads := rfl
@[simp] theorem State.fail_resets (s : State) (code : Code) (k : Nat) :
    (s.fail code k).resets = s.resets := rfl

/-! ### Updates as record updates, for statements written with record updates -/

theorem State.setMem_eq (s : State) (m : Memory) : s.setMem m = { s with mem := m } := rfl
theorem State.setOpr_eq (s : State) (o : Operands) : s.setOpr o = { s with opr := o } := rfl
theorem State.setStatus_eq (s : State) (st : Status) : s.setStatus st = { s with status := st } := rfl
theorem State.setRes_eq (s : State) (r : Results) : s.setRes r = { s with res := r } := rfl
theorem State.setCur_eq (s : State) (c : CursorRegs) : s.setCur c = { s with cur := c } := rfl
theorem State.setDp_eq (s : State) (d : Sequencer) : s.setDp d = { s with dp := d } := rfl
theorem State.setLayers_eq (s : State) (ls : List LayerRec) : s.setLayers ls = { s with layers := ls } := rfl
theorem State.setHostOps_eq (s : State) (ops : List HostOp) : s.setHostOps ops = { s with hostOps := ops } := rfl

/-! ### Bytes of the buffer depend on `mem` and `resets` alone -/

theorem State.byteAt_congr {s t : State} (hm : t.mem = s.mem) (hr : t.resets = s.resets) (a : Nat) :
    t.byteAt a = s.byteAt a := by
  simp [State.byteAt, hm, hr]

theorem State.nlayers_eq (s : State) : s.nlayers = s.layers.length := rfl

end Sys2Proof.Machine
end

