-- ==== Sys2Proof/Laws/Memory.lean ====
section
/-! SUPPORT. The memory operations: what is read after a store, and that every operation keeps the canonical form. -/

namespace Sys2Proof.Machine

/-! ### Reading after a store -/

theorem Memory.stored_put_self (m : Memory) (a : Nat) (b : Byte) :
    Memory.stored (Memory.put m a b) a = some b := by
  induction m with
  | nil => simp [Memory.put, Memory.stored]
  | cons c rest ih =>
    obtain ⟨k, v⟩ := c
    rcases Nat.lt_trichotomy a k with h | h | h
    · simp [Memory.put, Memory.stored, h]
    · simp [Memory.put, Memory.stored, h]
    · simp [Memory.put, Memory.stored, Nat.not_lt.2 h.le, h.ne', h.ne, ih]

theorem Memory.stored_put_other (m : Memory) {a x : Nat} (b : Byte) (hx : x ≠ a) :
    Memory.stored (Memory.put m a b) x = Memory.stored m x := by
  induction m with
  | nil => simp [Memory.put, Memory.stored, Ne.symm hx]
  | cons c rest ih =>
    obtain ⟨k, v⟩ := c
    rcases Nat.lt_trichotomy a k with h | h | h
    · simp [Memory.put, Memory.stored, h, Ne.symm hx]
    · subst h
      simp [Memory.put, Memory.stored, Ne.symm hx]
    · simp [Memory.put, Memory.stored, Nat.not_lt.2 h.le, h.ne', ih]

/-- What is stored at `x` after a byte list was stored from `a`. -/
theorem Memory.stored_putBytes (m : Memory) (a x : Nat) (bs : List Byte) :
    Memory.stored (Memory.putBytes m a bs) x =
      if a ≤ x ∧ x < a + bs.length then bs[x - a]? else Memory.stored m x := by
  induction bs generalizing m a with
  | nil => simp [Memory.putBytes]
  | cons b rest ih =>
    rw [Memory.putBytes, ih]
    simp only [List.length_cons]
    by_cases hx : x = a
    · subst hx
      simp [Memory.stored_put_self]
    · rw [Memory.stored_put_other m b hx]
      by_cases h : a + 1 ≤ x ∧ x < a + 1 + rest.length
      · have hs : x - a = (x - (a + 1)) + 1 := by omega
        rw [if_pos h, if_pos (by omega), hs, List.getElem?_cons_succ]
      · rw [if_neg h, if_neg (by omega)]

/-! ### The canonical form -/

theorem Memory.wf_nil (P : Params) : Memory.wf P [] := by simp [Memory.wf]

/-- Every cell after a store is the new one or an old one. -/
theorem Memory.mem_put {m : Memory} {a : Nat} {b : Byte} {c : Host.Cell} (h : c ∈ Memory.put m a b) :
    c = (a, b) ∨ c ∈ m := by
  induction m with
  | nil => simpa [Memory.put] using h
  | cons d rest ih =>
    obtain ⟨k, v⟩ := d
    unfold Memory.put at h
    split at h
    · simpa using h
    · split at h
      · rcases List.mem_cons.1 h with h | h
        · exact Or.inl h
        · exact Or.inr (List.mem_cons_of_mem _ h)
      · rcases List.mem_cons.1 h with h | h
        · exact Or.inr (h ▸ List.mem_cons_self)
        · exact (ih h).imp id (List.mem_cons_of_mem _)

theorem Memory.sorted_put {m : Memory} (a : Nat) (b : Byte) (h : m.Pairwise (fun c d => c.1 < d.1)) :
    (Memory.put m a b).Pairwise (fun c d => c.1 < d.1) := by
  induction m with
  | nil => simp [Memory.put]
  | cons d rest ih =>
    obtain ⟨k, v⟩ := d
    have hk : ∀ c ∈ rest, k < c.1 := (List.pairwise_cons.1 h).1
    have hr := List.Pairwise.of_cons h
    unfold Memory.put
    split
    · rename_i hlt
      refine List.pairwise_cons.2 ⟨fun c hc => ?_, h⟩
      rcases List.mem_cons.1 hc with hc | hc
      · subst hc; exact hlt
      · exact Nat.lt_trans hlt (hk c hc)
    · split
      · rename_i heq
        subst heq
        exact List.pairwise_cons.2 ⟨fun c hc => hk c hc, hr⟩
      · rename_i hnlt hne
        refine List.pairwise_cons.2 ⟨fun c hc => ?_, ih hr⟩
        rcases Memory.mem_put hc with hc | hc
        · subst hc; simp only; omega
        · exact hk c hc

theorem Memory.wf_put {P : Params} {m : Memory} {a : Nat} (b : Byte) (ha : a < P.bufSize) (h : Memory.wf P m) :
    Memory.wf P (Memory.put m a b) := by
  refine ⟨Memory.sorted_put a b h.1, fun c hc => ?_⟩
  rcases Memory.mem_put hc with hc | hc
  · subst hc; exact ha
  · exact h.2 c hc

theorem Memory.wf_putBytes {P : Params} {m : Memory} {a : Nat} (bs : List Byte) (ha : a + bs.length ≤ P.bufSize)
    (h : Memory.wf P m) : Memory.wf P (Memory.putBytes m a bs) := by
  induction bs generalizing m a with
  | nil => exact h
  | cons b rest ih =>
    simp only [List.length_cons] at ha
    exact ih (by omega) (Memory.wf_put b (by omega) h)

/-- The memory after reset has the canonical form. -/
theorem reset_memory_wf (P : Params) : Memory.wf P State.reset.mem := Memory.wf_nil P

/-! ### Lanes -/

@[simp] theorem laneBytes_length (d : Word) (n : Nat) : (laneBytes d n).length = n := by
  induction n generalizing d with
  | zero => rfl
  | succ n ih => simp [laneBytes, ih]

/-- Every host access keeps the canonical form. -/
theorem hostWrite_wf {P : Params} {s : State} (size : AccessSize) (addr : BitVec 17) (d : Word)
    (h : Memory.wf P s.mem) : Memory.wf P (hostWrite P s size addr d).mem := by
  unfold hostWrite
  split
  · rename_i hr
    split
    · exact h
    · exact h
    · rename_i a hreg
      simp only [accessReaches, hreg, decide_eq_true_eq] at hr
      exact Memory.wf_putBytes _ (by simpa using hr.2) h
    · exact h
  · exact h

theorem hostLoad_wf {P : Params} {s t : State} {off : Nat} {bs : List Byte} (h : Memory.wf P s.mem)
    (ht : hostLoad P s off bs = some t) : Memory.wf P t.mem := by
  unfold hostLoad at ht
  split at ht
  · cases ht
    exact Memory.wf_putBytes _ (by assumption) h
  · cases ht

end Sys2Proof.Machine
end

