-- ==== Sys2Proof/Laws/Reads.lean ====
section
/-! SUPPORT. Reading the buffer: byte lists, big-endian values, and the local cursor. -/

namespace Sys2Proof.Machine

/-! ### Byte lists -/

@[simp] theorem bytesFrom_length (buf : Nat → Byte) (a n : Nat) : (bytesFrom buf a n).length = n := by
  induction n generalizing a with
  | zero => rfl
  | succ n ih => simp [bytesFrom, ih]

theorem bytesFrom_add (buf : Nat → Byte) (a m n : Nat) :
    bytesFrom buf a (m + n) = bytesFrom buf a m ++ bytesFrom buf (a + m) n := by
  induction m generalizing a with
  | zero => simp [bytesFrom]
  | succ m ih =>
    have h1 : m + 1 + n = (m + n) + 1 := by omega
    have h2 : a + (m + 1) = a + 1 + m := by omega
    rw [h1, h2]
    simp [bytesFrom, ih]

theorem bytesFrom_getElem? (buf : Nat → Byte) (a n i : Nat) (h : i < n) :
    (bytesFrom buf a n)[i]? = some (buf (a + i)) := by
  induction n generalizing a i with
  | zero => omega
  | succ n ih =>
    cases i with
    | zero => simp [bytesFrom]
    | succ i =>
      have h2 : a + (i + 1) = a + 1 + i := by omega
      rw [h2, bytesFrom, List.getElem?_cons_succ, ih _ _ (by omega)]

/-- A byte list depends on the bytes it names and no others (20_memory R61). -/
theorem bytesFrom_congr {f g : Nat → Byte} {a n : Nat} (h : ∀ x, a ≤ x → x < a + n → f x = g x) :
    bytesFrom f a n = bytesFrom g a n := by
  induction n generalizing a with
  | zero => rfl
  | succ n ih =>
    rw [bytesFrom, bytesFrom, h a (le_refl _) (by omega), ih fun x h1 h2 => h x (by omega) (by omega)]

/-- The stored field of a header is the two bytes at its position (41_checksum R123). -/
theorem storedField_bytesFrom (buf : Nat → Byte) {off n p : Nat} (h : p + 2 ≤ n) :
    storedField (bytesFrom buf off n) p = buf (off + p) ++ buf (off + p + 1) := by
  simp [storedField, List.getD_eq_getElem?_getD, bytesFrom_getElem? _ _ _ _ (show p < n by omega),
    bytesFrom_getElem? _ _ _ _ (show p + 1 < n by omega), Nat.add_assoc]

/-! ### Big-endian values -/

theorem beValue_foldl (bs : List Byte) (acc : Nat) :
    bs.foldl (fun acc b => acc * 256 + b.toNat) acc = acc * 256 ^ bs.length + beValue bs := by
  unfold beValue
  induction bs generalizing acc with
  | nil => simp
  | cons b rest ih =>
    rw [List.foldl_cons, List.foldl_cons, ih, ih (0 * 256 + b.toNat), List.length_cons]
    ring

theorem beValue_append (xs ys : List Byte) : beValue (xs ++ ys) = beValue xs * 256 ^ ys.length + beValue ys := by
  rw [beValue, List.foldl_append, beValue_foldl ys]
  rfl

theorem beValue_lt (bs : List Byte) : beValue bs < 256 ^ bs.length := by
  induction bs using List.reverseRecOn with
  | nil => simp [beValue]
  | append_singleton xs x ih =>
    have hx : beValue [x] = x.toNat := by simp [beValue]
    have hlt : x.toNat < 256 := x.isLt
    rw [beValue_append, hx, List.length_append, List.length_singleton, pow_one, pow_succ]
    omega

theorem memRead_toNat (buf : Nat → Byte) (n a : Nat) :
    (memRead buf (8 * n) a).toNat = beValue (bytesFrom buf a n) := by
  have h := beValue_lt (bytesFrom buf a n)
  have hn : 8 * n / 8 = n := by omega
  rw [bytesFrom_length] at h
  rw [memRead, BitVec.toNat_ofNat, hn, Nat.mod_eq_of_lt]
  rw [pow_mul]
  exact h

/-- A field is its first bytes followed by the rest: the byte at the lowest address is the most significant
(20_memory R63). -/
theorem memRead_split (buf : Nat → Byte) (m n a : Nat) :
    (memRead buf (8 * (m + n)) a).toNat =
      (memRead buf (8 * m) a ++ memRead buf (8 * n) (a + m)).toNat := by
  rw [memRead_toNat, bytesFrom_add, beValue_append, BitVec.toNat_append, memRead_toNat, memRead_toNat,
    bytesFrom_length, ← Nat.shiftLeft_add_eq_or_of_lt, Nat.shiftLeft_eq, pow_mul]
  · rfl
  · have h := beValue_lt (bytesFrom buf (a + m) n)
    rw [bytesFrom_length] at h
    rw [pow_mul]
    exact h

theorem memRead_8 (buf : Nat → Byte) (a : Nat) : memRead buf 8 a = buf a := by
  apply BitVec.eq_of_toNat_eq
  rw [memRead_toNat buf 1 a]
  simp [bytesFrom, beValue]

theorem memRead_16 (buf : Nat → Byte) (a : Nat) : memRead buf 16 a = buf a ++ buf (a + 1) := by
  apply BitVec.eq_of_toNat_eq
  rw [memRead_split buf 1 1 a, memRead_8, memRead_8]

theorem memRead_32 (buf : Nat → Byte) (a : Nat) :
    memRead buf 32 a = (memRead buf 16 a ++ memRead buf 16 (a + 2) : BitVec 32) := by
  apply BitVec.eq_of_toNat_eq
  rw [memRead_split buf 2 2 a]

theorem memRead_48 (buf : Nat → Byte) (a : Nat) :
    memRead buf 48 a = (memRead buf 16 a ++ memRead buf 32 (a + 2) : BitVec 48) := by
  apply BitVec.eq_of_toNat_eq
  rw [memRead_split buf 2 4 a]

theorem memRead_96 (buf : Nat → Byte) (a : Nat) :
    memRead buf 96 a = (memRead buf 32 a ++ memRead buf 32 (a + 4) ++ memRead buf 32 (a + 8) : BitVec 96) := by
  have h : memRead buf 64 a = (memRead buf 32 a ++ memRead buf 32 (a + 4) : BitVec 64) := by
    apply BitVec.eq_of_toNat_eq
    rw [memRead_split buf 4 4 a]
  apply BitVec.eq_of_toNat_eq
  rw [memRead_split buf 8 4 a, h]

theorem memRead_128 (buf : Nat → Byte) (a : Nat) :
    memRead buf 128 a =
      (memRead buf 32 a ++ memRead buf 32 (a + 4) ++ memRead buf 32 (a + 8) ++ memRead buf 32 (a + 12)
        : BitVec 128) := by
  apply BitVec.eq_of_toNat_eq
  rw [memRead_split buf 12 4 a, memRead_96]

/-! ### The claims' names for the same fields -/

theorem State.memRead_be16 (s : State) (a : Nat) : memRead s.byteAt 16 a = s.be16 a := memRead_16 _ _

theorem State.memRead_be32 (s : State) (a : Nat) : memRead s.byteAt 32 a = s.be32 a := by
  rw [memRead_32, State.memRead_be16, State.memRead_be16]; rfl

theorem State.memRead_be48 (s : State) (a : Nat) : memRead s.byteAt 48 a = s.be48 a := by
  rw [memRead_48, State.memRead_be16, State.memRead_be32]; rfl

theorem State.memRead_be128 (s : State) (a : Nat) : memRead s.byteAt 128 a = s.be128 a := by
  rw [memRead_128]; simp only [State.memRead_be32]; rfl

/-- A field depends on its own bytes and no others. -/
theorem memRead_congr {f g : Nat → Byte} {w a : Nat} (h : ∀ x, a ≤ x → x < a + w / 8 → f x = g x) :
    memRead f w a = memRead g w a := by
  rw [memRead, memRead, bytesFrom_congr h]

/-! ### The local cursor (00_scope R15) -/

theorem LocalCursor.rd_ok {c : LocalCursor} {w : Nat} (buf : Nat → Byte) (h : w / 8 ≤ c.remaining) :
    c.rd buf w = .ok (memRead buf w (c.base + c.pos), c.advance (w / 8)) := by
  simp [LocalCursor.rd, Nat.not_lt.2 h]

theorem LocalCursor.rd_error {c : LocalCursor} {w : Nat} (buf : Nat → Byte) (h : c.remaining < w / 8) :
    c.rd buf w = .error .unexpectedEof := by
  simp [LocalCursor.rd, h]

/-- Everything a read can do: it answers the field and moves on by its bytes, or it fails. -/
theorem LocalCursor.rd_cases (c : LocalCursor) (buf : Nat → Byte) (w : Nat) :
    (w / 8 ≤ c.remaining ∧ c.rd buf w = .ok (memRead buf w (c.base + c.pos), c.advance (w / 8))) ∨
      (c.remaining < w / 8 ∧ c.rd buf w = .error .unexpectedEof) := by
  rcases Nat.lt_or_ge c.remaining (w / 8) with h | h
  · exact .inr ⟨h, LocalCursor.rd_error buf h⟩
  · exact .inl ⟨h, LocalCursor.rd_ok buf h⟩

theorem LocalCursor.rdBytes_ok {c : LocalCursor} {n : Nat} (h : n ≤ c.remaining) :
    c.rdBytes n = .ok ((c.base + c.pos, n), c.advance n) := by
  simp [LocalCursor.rdBytes, Nat.not_lt.2 h]

theorem LocalCursor.peek_ok {c : LocalCursor} {n : Nat} (h : n ≤ c.remaining) :
    c.peek n = .ok (c.base + c.pos, n) := by
  simp [LocalCursor.peek, Nat.not_lt.2 h]

@[simp] theorem LocalCursor.start_base (off len : Nat) : (LocalCursor.start off len).base = off := rfl
@[simp] theorem LocalCursor.start_len (off len : Nat) : (LocalCursor.start off len).len = len := rfl
@[simp] theorem LocalCursor.start_pos (off len : Nat) : (LocalCursor.start off len).pos = 0 := rfl
@[simp] theorem LocalCursor.advance_base (c : LocalCursor) (n : Nat) : (c.advance n).base = c.base := rfl
@[simp] theorem LocalCursor.advance_len (c : LocalCursor) (n : Nat) : (c.advance n).len = c.len := rfl
@[simp] theorem LocalCursor.advance_pos (c : LocalCursor) (n : Nat) : (c.advance n).pos = c.pos + n := rfl

/-- `rem(c) = c.len - c.pos` (00_scope R15). -/
theorem LocalCursor.remaining_eq (c : LocalCursor) : c.remaining = c.len - c.pos := rfl

end Sys2Proof.Machine
end

