-- ==== Sys2Proof/Laws/Parsers.lean ====
section
/-! SUPPORT. One spec lemma per parser function: what it answers on every window, with the reads done. -/

namespace Sys2Proof.Machine

theorem except_bind_ok {ε α β : Type} (a : α) (f : α → Except ε β) : (Except.ok a >>= f) = f a := rfl

theorem except_bind_error {ε α β : Type} (e : ε) (f : α → Except ε β) :
    ((Except.error e : Except ε α) >>= f) = Except.error e := rfl

theorem except_pure {ε α : Type} (a : α) : (pure a : Except ε α) = Except.ok a := rfl

/-- A read followed by the rest of a parser, when the field is inside the window. -/
theorem rd_then {β : Type} (buf : Nat → Byte) (base len pos w : Nat)
    (k : BitVec w × LocalCursor → Except Code β) (h : pos + w / 8 ≤ len) :
    (LocalCursor.rd { base := base, len := len, pos := pos } buf w >>= k) =
      k (memRead buf w (base + pos), { base := base, len := len, pos := pos + w / 8 }) := by
  rw [LocalCursor.rd_ok buf (by simp only [LocalCursor.remaining]; omega)]
  rfl

/-- A read followed by the rest of a parser, when the field passes the window's end. -/
theorem rd_fails {β : Type} (buf : Nat → Byte) (base len pos w : Nat)
    (k : BitVec w × LocalCursor → Except Code β) (h : len < pos + w / 8) (hp : pos ≤ len) :
    (LocalCursor.rd { base := base, len := len, pos := pos } buf w >>= k) = .error .unexpectedEof := by
  rw [LocalCursor.rd_error buf (by simp only [LocalCursor.remaining]; omega)]
  rfl

/-! ### 802.1Q -/

/-- The record `ParseVlan` builds. -/
def vlanRec (buf : Nat → Byte) (off len : Nat) : LayerRec :=
  mkRec off 4 (len - 4) (.etype (memRead buf 16 (off + 2))) 0 {}
    (.vlan { tci := memRead buf 16 off, etherType := memRead buf 16 (off + 2) })

theorem parseVlan_short {buf : Nat → Byte} {off len : Nat} (h : len < 4) :
    parseVlan buf off len = .error .unexpectedEof := by
  unfold parseVlan LocalCursor.start
  by_cases h2 : len < 2
  · rw [rd_fails _ _ _ _ _ _ (by omega) (by omega)]
  · rw [rd_then _ _ _ _ _ _ (by omega)]
    dsimp only
    rw [rd_fails _ _ _ _ _ _ (by omega) (by omega)]

theorem parseVlan_ok {buf : Nat → Byte} {off len : Nat} (h : 4 ≤ len) :
    parseVlan buf off len = .ok (vlanRec buf off len) := by
  unfold parseVlan LocalCursor.start
  rw [rd_then _ _ _ _ _ _ (by omega)]
  dsimp only
  rw [rd_then _ _ _ _ _ _ (by omega)]
  dsimp only
  rfl

/-! ### Ethernet -/

/-- Whether the EtherType at bytes 12 and 13 is the tag identifier. -/
def ethTagged (P : Params) (buf : Nat → Byte) (off : Nat) : Bool := decide (memRead buf 16 (off + 12) = P.tpid)

/-- The header length `ParseEth` finds: 14, or 18 when tagged. -/
def ethHdr (P : Params) (buf : Nat → Byte) (off : Nat) : Nat := if ethTagged P buf off then 18 else 14

/-- The EtherType, tag and header length `ParseEth` finds. -/
def ethTypeAt (P : Params) (buf : Nat → Byte) (off : Nat) : EthType :=
  if memRead buf 16 (off + 12) = P.tpid then
    { tagged := true, tci := memRead buf 16 (off + 14), etherType := memRead buf 16 (off + 16) }
  else { tagged := false, tci := 0, etherType := memRead buf 16 (off + 12) }

/-- The record `ParseEth` builds. -/
def ethRec (P : Params) (buf : Nat → Byte) (off len : Nat) (fcsEn : Bool) : LayerRec :=
  let t := ethTypeAt P buf off
  let hdr := ethHdr P buf off
  if fcsEn then
    mkRec off hdr (len - 4 - hdr) (.etype t.etherType) 0
      { ckChecked := true, ckValid := P.fcsCheck (bytesFrom buf off (len - 4)) (memRead buf 32 (off + len - 4)),
        tagged := t.tagged }
      (.eth { dst := memRead buf 48 off, src := memRead buf 48 (off + 6), etherType := t.etherType, tci := t.tci,
              fcs := memRead buf 32 (off + len - 4) })
  else
    mkRec off hdr (len - hdr) (.etype t.etherType) 0 { tagged := t.tagged }
      (.eth { dst := memRead buf 48 off, src := memRead buf 48 (off + 6), etherType := t.etherType, tci := t.tci,
              fcs := 0 })

theorem parseEth_malformed {P : Params} {buf : Nat → Byte} {off len : Nat} (h : len < P.ethMinFrame) :
    parseEth P buf off len true = .error .malformedPacket := by
  simp [parseEth, h]

theorem readEthType_ok {P : Params} {buf : Nat → Byte} {off len : Nat} (h : ethHdr P buf off ≤ len) :
    readEthType P buf { base := off, len := len, pos := 12 } =
      .ok (ethTypeAt P buf off, { base := off, len := len, pos := ethHdr P buf off }) := by
  unfold readEthType
  unfold ethHdr ethTagged at h
  by_cases ht : memRead buf 16 (off + 12) = P.tpid
  · simp only [ht, decide_true, if_true] at h
    rw [rd_then _ _ _ _ _ _ (by omega)]
    dsimp only
    simp only [ht, if_true]
    rw [rd_then _ _ _ _ _ _ (by omega)]
    dsimp only
    rw [rd_then _ _ _ _ _ _ (by omega)]
    dsimp only
    simp [ethTypeAt, ethHdr, ethTagged, ht, except_pure]
  · simp only [ht, decide_false, Bool.false_eq_true, if_false] at h
    rw [rd_then _ _ _ _ _ _ (by omega)]
    dsimp only
    simp [ethTypeAt, ethHdr, ethTagged, ht, except_pure]

theorem readEthType_short {P : Params} {buf : Nat → Byte} {off len : Nat} (h : len < ethHdr P buf off)
    (h12 : 12 ≤ len) :
    readEthType P buf { base := off, len := len, pos := 12 } = .error .unexpectedEof := by
  unfold readEthType
  unfold ethHdr ethTagged at h
  by_cases h14 : len < 14
  · rw [rd_fails _ _ _ _ _ _ (by omega) (by omega)]
  · rw [rd_then _ _ _ _ _ _ (by omega)]
    dsimp only
    by_cases ht : memRead buf 16 (off + 12) = P.tpid
    · simp only [ht, decide_true, if_true] at h ⊢
      by_cases h16 : len < 16
      · rw [rd_fails _ _ _ _ _ _ (by omega) (by omega)]
      · rw [rd_then _ _ _ _ _ _ (by omega)]
        dsimp only
        rw [rd_fails _ _ _ _ _ _ (by omega) (by omega)]
    · simp only [ht, decide_false, Bool.false_eq_true, if_false] at h
      omega

theorem parseEth_short {P : Params} {buf : Nat → Byte} {off len : Nat} {fcsEn : Bool}
    (hm : fcsEn = true → P.ethMinFrame ≤ len) (h : len < ethHdr P buf off) :
    parseEth P buf off len fcsEn = .error .unexpectedEof := by
  unfold parseEth LocalCursor.start
  rw [if_neg (by rintro ⟨h1, h2⟩; exact absurd (hm h1) (by omega))]
  by_cases h6 : len < 6
  · rw [rd_fails _ _ _ _ _ _ (by omega) (by omega)]
  · rw [rd_then _ _ _ _ _ _ (by omega)]
    dsimp only
    by_cases h12 : len < 12
    · rw [rd_fails _ _ _ _ _ _ (by omega) (by omega)]
    · rw [rd_then _ _ _ _ _ _ (by omega)]
      dsimp only
      show (readEthType P buf { base := off, len := len, pos := 12 } >>= _) = _
      rw [readEthType_short h (by omega), except_bind_error]

theorem ethHdr_cases (P : Params) (buf : Nat → Byte) (off : Nat) :
    ethHdr P buf off = 14 ∨ ethHdr P buf off = 18 := by
  unfold ethHdr; split <;> simp

theorem parseEth_ok {P : Params} {buf : Nat → Byte} {off len : Nat} {fcsEn : Bool}
    (hm : fcsEn = true → P.ethMinFrame ≤ len) (h : ethHdr P buf off ≤ len) :
    parseEth P buf off len fcsEn = .ok (ethRec P buf off len fcsEn) := by
  have h14 := ethHdr_cases P buf off
  unfold parseEth LocalCursor.start
  rw [if_neg (by rintro ⟨h1, h2⟩; exact absurd (hm h1) (by omega))]
  rw [rd_then _ _ _ _ _ _ (by omega)]
  dsimp only
  rw [rd_then _ _ _ _ _ _ (by omega)]
  dsimp only
  show (readEthType P buf { base := off, len := len, pos := 12 } >>= _) = _
  rw [readEthType_ok h, except_bind_ok]
  cases fcsEn <;> rfl

/-! ### IPv4 -/

/-- The fields `ParseIp4` reads. -/
def ip4FieldsAt (buf : Nat → Byte) (off : Nat) : Ip4Fields :=
  { version := (memRead buf 8 off).extractLsb' 4 4, ihl := (memRead buf 8 off).extractLsb' 0 4,
    dscp := (memRead buf 8 (off + 1)).extractLsb' 2 6, ecn := (memRead buf 8 (off + 1)).extractLsb' 0 2,
    totalLength := memRead buf 16 (off + 2), ident := memRead buf 16 (off + 4),
    flags := (memRead buf 16 (off + 6)).extractLsb' 13 3, fragOff := (memRead buf 16 (off + 6)).extractLsb' 0 13,
    ttl := memRead buf 8 (off + 8), protocol := memRead buf 8 (off + 9), checksum := memRead buf 16 (off + 10),
    src := memRead buf 32 (off + 12), dst := memRead buf 32 (off + 16) }

/-- The header length `ParseIp4` finds. -/
def ip4Hdr (buf : Nat → Byte) (off : Nat) : Nat := 4 * (ip4FieldsAt buf off).ihl.toNat

/-- The header checksum's verdict. -/
def ip4Valid (buf : Nat → Byte) (off : Nat) : Bool := (verifyIp4 buf off (ip4Hdr buf off)).valid

/-- The record `ParseIp4` builds. -/
def ip4Rec (buf : Nat → Byte) (off len : Nat) : LayerRec :=
  mkRec off (ip4Hdr buf off) (len - ip4Hdr buf off) (.ipproto (ip4FieldsAt buf off).protocol) (ip4Hdr buf off - 20)
    { ckChecked := true, ckValid := ip4Valid buf off } (.ip4 (ip4FieldsAt buf off))

theorem readIp4_ok {buf : Nat → Byte} {off len : Nat} (version ihl : BitVec 4) (h5 : 5 ≤ ihl.toNat)
    (h : 4 * ihl.toNat ≤ len) :
    readIp4 buf { base := off, len := len, pos := 1 } version ihl =
      .ok { ip4FieldsAt buf off with version := version, ihl := ihl } := by
  unfold readIp4
  iterate 9 (rw [rd_then _ _ _ _ _ _ (by omega)]; dsimp only)
  rw [LocalCursor.rdBytes_ok (by simp only [LocalCursor.remaining]; omega), except_bind_ok]
  rfl

/-- Everything `ParseIp4` can do, in the order of its tests (60_exceptions R237). -/
theorem parseIp4_eq (buf : Nat → Byte) (off len : Nat) (strict : Bool) :
    parseIp4 buf off len strict =
      if len = 0 then .error .unexpectedEof
      else if (ip4FieldsAt buf off).version ≠ 4 then .error .invalidVersion
      else if (ip4FieldsAt buf off).ihl.toNat < 5 then .error .headerTooShort
      else if ip4Hdr buf off > len then .error .truncatedPacket
      else if strict = true ∧ ip4Valid buf off = false then .error .checksumMismatch
      else .ok (ip4Rec buf off len) := by
  unfold parseIp4 LocalCursor.start
  by_cases h0 : len = 0
  · rw [rd_fails _ _ _ _ _ _ (by omega) (by omega), if_pos h0]
  · rw [rd_then _ _ _ _ _ _ (by omega)]
    dsimp only
    rw [if_neg h0]
    show (if (ip4FieldsAt buf off).version ≠ 4 then _ else _) = _
    by_cases hv : (ip4FieldsAt buf off).version ≠ 4
    · rw [if_pos hv, if_pos hv]
    · rw [if_neg hv, if_neg hv]
      show (if (ip4FieldsAt buf off).ihl.toNat < 5 then _ else _) = _
      by_cases h5 : (ip4FieldsAt buf off).ihl.toNat < 5
      · rw [if_pos h5, if_pos h5]
      · rw [if_neg h5, if_neg h5]
        show (if ip4Hdr buf off > len then _ else _) = _
        by_cases hl : ip4Hdr buf off > len
        · rw [if_pos hl, if_pos hl]
        · rw [if_neg hl, if_neg hl]
          show (readIp4 buf { base := off, len := len, pos := 1 } (ip4FieldsAt buf off).version
            (ip4FieldsAt buf off).ihl >>= _) = _
          rw [readIp4_ok _ _ (by omega) (by unfold ip4Hdr at hl; omega), except_bind_ok]
          rfl

/-! ### IPv6 -/

/-- The fields `ParseIp6` reads. -/
def ip6FieldsAt (buf : Nat → Byte) (off : Nat) : Ip6Fields :=
  { version := (memRead buf 8 off).extractLsb' 4 4,
    tclass := (memRead buf 32 off).extractLsb' 20 8, flow := (memRead buf 32 off).extractLsb' 0 20,
    payloadLength := memRead buf 16 (off + 4), nextHeader := memRead buf 8 (off + 6),
    hopLimit := memRead buf 8 (off + 7), src := memRead buf 128 (off + 8), dst := memRead buf 128 (off + 24) }

/-- The record `ParseIp6` builds. -/
def ip6Rec (buf : Nat → Byte) (off len : Nat) : LayerRec :=
  mkRec off 40 (len - 40) (.ipproto (ip6FieldsAt buf off).nextHeader) 0 {} (.ip6 (ip6FieldsAt buf off))

/-- Everything `ParseIp6` can do, in the order of its tests (60_exceptions R237). -/
theorem parseIp6_eq (buf : Nat → Byte) (off len : Nat) :
    parseIp6 buf off len =
      if len = 0 then .error .unexpectedEof
      else if (ip6FieldsAt buf off).version ≠ 6 then .error .invalidVersion
      else if len < 40 then .error .unexpectedEof
      else .ok (ip6Rec buf off len) := by
  unfold parseIp6 LocalCursor.start
  by_cases h0 : len = 0
  · subst h0
    rfl
  · have hp := LocalCursor.peek_ok (c := { base := off, len := len, pos := 0 }) (n := 1)
      (show 1 ≤ len - 0 by omega)
    rw [if_neg h0]
    dsimp only
    rw [hp, except_bind_ok]
    show (if (ip6FieldsAt buf off).version ≠ 6 then _ else _) = _
    by_cases hv : (ip6FieldsAt buf off).version ≠ 6
    · rw [if_pos hv, if_pos hv]
    · rw [if_neg hv, if_neg hv]
      by_cases h4 : len < 4
      · rw [rd_fails _ _ _ _ _ _ (by omega) (by omega), if_pos (by omega)]
      rw [rd_then _ _ _ _ _ _ (by omega)]
      dsimp only
      by_cases h6 : len < 6
      · rw [rd_fails _ _ _ _ _ _ (by omega) (by omega), if_pos (by omega)]
      rw [rd_then _ _ _ _ _ _ (by omega)]
      dsimp only
      by_cases h7 : len < 7
      · rw [rd_fails _ _ _ _ _ _ (by omega) (by omega), if_pos (by omega)]
      rw [rd_then _ _ _ _ _ _ (by omega)]
      dsimp only
      by_cases h8 : len < 8
      · rw [rd_fails _ _ _ _ _ _ (by omega) (by omega), if_pos (by omega)]
      rw [rd_then _ _ _ _ _ _ (by omega)]
      dsimp only
      by_cases h24 : len < 24
      · rw [rd_fails _ _ _ _ _ _ (by omega) (by omega), if_pos (by omega)]
      rw [rd_then _ _ _ _ _ _ (by omega)]
      dsimp only
      by_cases h40 : len < 40
      · rw [rd_fails _ _ _ _ _ _ (by omega) (by omega), if_pos (by omega)]
      rw [rd_then _ _ _ _ _ _ (by omega)]
      dsimp only
      rw [if_neg h40]
      rfl

/-! ### TCP -/

/-- The fields `ParseTcp` reads. -/
def tcpFieldsAt (buf : Nat → Byte) (off : Nat) : TcpFields :=
  { sport := memRead buf 16 off, dport := memRead buf 16 (off + 2), seq := memRead buf 32 (off + 4),
    ack := memRead buf 32 (off + 8), doff := (memRead buf 16 (off + 12)).extractLsb' 12 4,
    flags := (memRead buf 16 (off + 12)).extractLsb' 0 12, window := memRead buf 16 (off + 14),
    checksum := memRead buf 16 (off + 16), urgent := memRead buf 16 (off + 18) }

/-- The header length `ParseTcp` finds. -/
def tcpHdr (buf : Nat → Byte) (off : Nat) : Nat := 4 * (tcpFieldsAt buf off).doff.toNat

/-- The verdict of a transport checksum over the whole window (43_parsers_transport R170). -/
def xportValid (buf : Nat → Byte) (off len : Nat) (ph : PseudoHeader) (x : Xport) : Bool :=
  (verifyXport ph buf off len (csumPos x)).valid

/-- The record `ParseTcp` builds. -/
def tcpRec (buf : Nat → Byte) (off len : Nat) (ph : PseudoHeader) : LayerRec :=
  mkRec off (tcpHdr buf off) (len - tcpHdr buf off) .none (tcpHdr buf off - 20)
    { ckChecked := true, ckValid := xportValid buf off len ph .tcp } (.tcp (tcpFieldsAt buf off))

theorem readTcp_ok {buf : Nat → Byte} {off len : Nat} (h : 20 ≤ len) :
    readTcp buf (LocalCursor.start off len) =
      .ok (tcpFieldsAt buf off, { base := off, len := len, pos := 20 }) := by
  unfold readTcp LocalCursor.start
  iterate 8 (rw [rd_then _ _ _ _ _ _ (by omega)]; dsimp only)
  rfl

theorem readTcp_short {buf : Nat → Byte} {off len : Nat} (h : len < 20) :
    readTcp buf (LocalCursor.start off len) = .error .unexpectedEof := by
  unfold readTcp LocalCursor.start
  by_cases h2 : len < 2
  · rw [rd_fails _ _ _ _ _ _ (by omega) (by omega)]
  rw [rd_then _ _ _ _ _ _ (by omega)]
  dsimp only
  by_cases h4 : len < 4
  · rw [rd_fails _ _ _ _ _ _ (by omega) (by omega)]
  rw [rd_then _ _ _ _ _ _ (by omega)]
  dsimp only
  by_cases h8 : len < 8
  · rw [rd_fails _ _ _ _ _ _ (by omega) (by omega)]
  rw [rd_then _ _ _ _ _ _ (by omega)]
  dsimp only
  by_cases h12 : len < 12
  · rw [rd_fails _ _ _ _ _ _ (by omega) (by omega)]
  rw [rd_then _ _ _ _ _ _ (by omega)]
  dsimp only
  by_cases h14 : len < 14
  · rw [rd_fails _ _ _ _ _ _ (by omega) (by omega)]
  rw [rd_then _ _ _ _ _ _ (by omega)]
  dsimp only
  by_cases h16 : len < 16
  · rw [rd_fails _ _ _ _ _ _ (by omega) (by omega)]
  rw [rd_then _ _ _ _ _ _ (by omega)]
  dsimp only
  by_cases h18 : len < 18
  · rw [rd_fails _ _ _ _ _ _ (by omega) (by omega)]
  rw [rd_then _ _ _ _ _ _ (by omega)]
  dsimp only
  rw [rd_fails _ _ _ _ _ _ (by omega) (by omega)]

/-- Everything `ParseTcp` can do, in the order of its tests (60_exceptions R237). -/
theorem parseTcp_eq (buf : Nat → Byte) (off len : Nat) (ph : PseudoHeader) (strict : Bool) :
    parseTcp buf off len ph strict =
      if len < 20 then .error .unexpectedEof
      else if (tcpFieldsAt buf off).doff.toNat < 5 then .error .headerTooShort
      else if tcpHdr buf off > len then .error .truncatedPacket
      else if strict = true ∧ xportValid buf off len ph .tcp = false then .error .checksumMismatch
      else .ok (tcpRec buf off len ph) := by
  unfold parseTcp
  by_cases h20 : len < 20
  · rw [readTcp_short h20, if_pos h20, except_bind_error]
  · rw [readTcp_ok (by omega), if_neg h20, except_bind_ok]
    show (if (tcpFieldsAt buf off).doff.toNat < 5 then _ else _) = _
    by_cases h5 : (tcpFieldsAt buf off).doff.toNat < 5
    · rw [if_pos h5, if_pos h5]
    · rw [if_neg h5, if_neg h5]
      show (if tcpHdr buf off > len then _ else _) = _
      by_cases hl : tcpHdr buf off > len
      · rw [if_pos hl, if_pos hl]
      · rw [if_neg hl, if_neg hl]
        show (LocalCursor.rdBytes { base := off, len := len, pos := 20 } (tcpHdr buf off - 20) >>= _) = _
        rw [LocalCursor.rdBytes_ok (by simp only [LocalCursor.remaining]; omega), except_bind_ok]
        rfl

/-! ### UDP and ICMP -/

/-- The fields `ParseUdp` reads. -/
def udpFieldsAt (buf : Nat → Byte) (off : Nat) : UdpFields :=
  { sport := memRead buf 16 off, dport := memRead buf 16 (off + 2), length := memRead buf 16 (off + 4),
    checksum := memRead buf 16 (off + 6) }

/-- "Mismatch" is any inequality of the length field with the window's length (43_parsers_transport R178). -/
def udpMismatch (buf : Nat → Byte) (off len : Nat) : Bool := decide ((udpFieldsAt buf off).length.toNat ≠ len)

/-- The record `ParseUdp` builds. -/
def udpRec (buf : Nat → Byte) (off len : Nat) (ph : PseudoHeader) : LayerRec :=
  mkRec off 8 (len - 8) .none 0
    { ckChecked := true, ckValid := xportValid buf off len ph .udp, lenMismatch := udpMismatch buf off len }
    (.udp (udpFieldsAt buf off))

/-- Everything `ParseUdp` can do, in the order of its tests (60_exceptions R237). -/
theorem parseUdp_eq (buf : Nat → Byte) (off len : Nat) (ph : PseudoHeader) (strict : Bool) :
    parseUdp buf off len ph strict =
      if len < 8 then .error .unexpectedEof
      else if strict = true ∧ udpMismatch buf off len = true then .error .malformedPacket
      else if strict = true ∧ xportValid buf off len ph .udp = false then .error .checksumMismatch
      else .ok (udpRec buf off len ph) := by
  unfold parseUdp LocalCursor.start
  by_cases h2 : len < 2
  · rw [rd_fails _ _ _ _ _ _ (by omega) (by omega), if_pos (by omega)]
  rw [rd_then _ _ _ _ _ _ (by omega)]
  dsimp only
  by_cases h4 : len < 4
  · rw [rd_fails _ _ _ _ _ _ (by omega) (by omega), if_pos (by omega)]
  rw [rd_then _ _ _ _ _ _ (by omega)]
  dsimp only
  by_cases h6 : len < 6
  · rw [rd_fails _ _ _ _ _ _ (by omega) (by omega), if_pos (by omega)]
  rw [rd_then _ _ _ _ _ _ (by omega)]
  dsimp only
  by_cases h8 : len < 8
  · rw [rd_fails _ _ _ _ _ _ (by omega) (by omega), if_pos (by omega)]
  rw [rd_then _ _ _ _ _ _ (by omega)]
  dsimp only
  rw [if_neg h8]
  rfl

/-- The fields `ParseIcmp` reads. -/
def icmpFieldsAt (buf : Nat → Byte) (off : Nat) : IcmpFields :=
  { type := memRead buf 8 off, code := memRead buf 8 (off + 1), checksum := memRead buf 16 (off + 2) }

/-- The record `ParseIcmp` builds. -/
def icmpRec (buf : Nat → Byte) (off len : Nat) (ph : PseudoHeader) : LayerRec :=
  mkRec off 4 (len - 4) .none 0 { ckChecked := true, ckValid := xportValid buf off len ph .icmp }
    (.icmp (icmpFieldsAt buf off))

/-- Everything `ParseIcmp` can do, in the order of its tests (60_exceptions R237). -/
theorem parseIcmp_eq (buf : Nat → Byte) (off len : Nat) (ph : PseudoHeader) (strict : Bool) :
    parseIcmp buf off len ph strict =
      if len < 4 then .error .unexpectedEof
      else if strict = true ∧ xportValid buf off len ph .icmp = false then .error .checksumMismatch
      else .ok (icmpRec buf off len ph) := by
  unfold parseIcmp LocalCursor.start
  by_cases h1 : len < 1
  · rw [rd_fails _ _ _ _ _ _ (by omega) (by omega), if_pos (by omega)]
  rw [rd_then _ _ _ _ _ _ (by omega)]
  dsimp only
  by_cases h2 : len < 2
  · rw [rd_fails _ _ _ _ _ _ (by omega) (by omega), if_pos (by omega)]
  rw [rd_then _ _ _ _ _ _ (by omega)]
  dsimp only
  by_cases h4 : len < 4
  · rw [rd_fails _ _ _ _ _ _ (by omega) (by omega), if_pos (by omega)]
  rw [rd_then _ _ _ _ _ _ (by omega)]
  dsimp only
  rw [if_neg h4]
  rfl

end Sys2Proof.Machine
end

