-- ==== Sys2Proof/Laws/Commands.lean ====
section
/-! SUPPORT. One lemma per shared operation of the commands, the host side and the step: everything it can do. -/

namespace Sys2Proof.Machine

/-! ### Outcomes -/

/-- A failure that writes nothing but `STATUS` (60_exceptions R236). -/
theorem State.fail_eq_onlyStatus (s : State) (code : Code) : s.fail code 0 = s.onlyStatus code := rfl

@[simp] theorem Status.okay_err : Status.okay.err = false := rfl
@[simp] theorem Status.okay_code : Status.okay.code = .ok := rfl
@[simp] theorem Status.okay_layer : Status.okay.layer = 0 := rfl

/-- Which `ERR` bit a failure writes is the one its code comes with, for every code of a failure. -/
theorem State.fail_err_eq (s : State) {code : Code} (layer : Nat) (h : code.isError = true) :
    (s.fail code layer).status.err = (s.fail code layer).status.code.isError := h.symm

/-! ### The cursor commands -/

theorem cursorCommand_cases (P : Params) (s : State) (n : Nat) (effect : State) :
    (¬ s.cursorOk P ∧ cursorCommand P s n effect = s.fail .badWindow 0) ∨
      (s.cursorOk P ∧ s.curRemaining < n ∧ cursorCommand P s n effect = s.fail .unexpectedEof 0) ∨
      (s.cursorOk P ∧ n ≤ s.curRemaining ∧ cursorCommand P s n effect = effect) := by
  unfold cursorCommand
  by_cases h : s.cursorOk P
  · by_cases hn : n > s.curRemaining
    · exact .inr (.inl ⟨h, hn, by rw [if_neg (not_not.2 h), if_pos hn]⟩)
    · exact .inr (.inr ⟨h, Nat.not_lt.1 hn, by rw [if_neg (not_not.2 h), if_neg hn]⟩)
  · exact .inl ⟨h, by rw [if_pos h]⟩

theorem curOpenCmd_cases (P : Params) (s : State) :
    (¬ s.windowOk P ∧ curOpenCmd P s = s.fail .badWindow 0) ∨
      (s.windowOk P ∧
        curOpenCmd P s = (s.setCur { base := s.opr.winOff, len := s.opr.winLen, pos := 0 }).succeed) := by
  unfold curOpenCmd
  by_cases h : s.windowOk P
  · exact .inr ⟨h, by rw [if_neg (not_not.2 h)]⟩
  · exact .inl ⟨h, by rw [if_pos h]⟩

theorem curSkipCmd_cases (s : State) :
    (s.curRemaining < s.count ∧ curSkipCmd s = s.fail .unexpectedEof 0) ∨
      (s.count ≤ s.curRemaining ∧ curSkipCmd s = (s.bumpPos s.count).succeed) := by
  unfold curSkipCmd
  by_cases h : s.count > s.curRemaining
  · exact .inl ⟨h, by rw [if_pos h]⟩
  · exact .inr ⟨Nat.not_lt.1 h, by rw [if_neg h]⟩

/-! ### The checksum commands -/

theorem csumCommand_cases (P : Params) (s : State) (p : Nat) (verify : Nat → Nat → Verdict) :
    (¬ s.windowOk P ∧ csumCommand P s p verify = s.fail .badWindow 0) ∨
      (s.windowOk P ∧ s.winLen < p + 2 ∧ csumCommand P s p verify = s.fail .unexpectedEof 0) ∨
      (s.windowOk P ∧ p + 2 ≤ s.winLen ∧ csumCommand P s p verify = s.setVerdict (verify s.winOff s.winLen)) := by
  unfold csumCommand
  by_cases h : s.windowOk P
  · by_cases hn : s.winLen < p + 2
    · exact .inr (.inl ⟨h, hn, by rw [if_neg (not_not.2 h), if_pos hn]⟩)
    · exact .inr (.inr ⟨h, Nat.not_lt.1 hn, by rw [if_neg (not_not.2 h), if_neg hn]⟩)
  · exact .inl ⟨h, by rw [if_pos h]⟩

theorem csumXportCmd_cases (P : Params) (x : Xport) (s : State) :
    (s.pseudoHeader = none ∧ csumXportCmd P x s = s.fail .illegalCommand 0) ∨
      ∃ ph, s.pseudoHeader = some ph ∧
        csumXportCmd P x s =
          csumCommand P s (csumPos x) (fun off n => verifyXport ph s.byteAt off n (csumPos x)) := by
  unfold csumXportCmd
  cases h : s.pseudoHeader with
  | none => exact .inl ⟨rfl, rfl⟩
  | some ph => exact .inr ⟨ph, rfl, rfl⟩

/-- The reserved kind is the only one with no pseudo-header (10_state R28). -/
theorem State.pseudoHeader_eq_none {s : State} : s.pseudoHeader = none ↔ s.opr.phKind = 3 := by
  have hk : ∀ k : BitVec 2, phKindOf k = none ↔ k = 3 := by decide
  rw [← hk, State.pseudoHeader]
  cases phKindOf s.opr.phKind <;> simp

/-! ### Shallow parses -/

theorem shallowResult_ok (s : State) (rec : LayerRec) : shallowResult s (.ok rec) = s.parseDone rec := rfl

theorem shallowResult_error (s : State) (code : Code) : shallowResult s (.error code) = s.parseFailed code := rfl

theorem parseCommand_cases (P : Params) (s : State) (parser : Nat → Nat → Except Code LayerRec) :
    (¬ s.windowOk P ∧ parseCommand P s parser = s.fail .badWindow 0) ∨
      (s.windowOk P ∧ parseCommand P s parser = shallowResult s (parser s.winOff s.winLen)) := by
  unfold parseCommand
  by_cases h : s.windowOk P
  · exact .inr ⟨h, by rw [if_neg (not_not.2 h)]⟩
  · exact .inl ⟨h, by rw [if_pos h]⟩

theorem transportCommand_cases (P : Params) (s : State)
    (parser : PseudoHeader → Nat → Nat → Except Code LayerRec) :
    (s.pseudoHeader = none ∧ transportCommand P s parser = s.fail .illegalCommand 0) ∨
      ∃ ph, s.pseudoHeader = some ph ∧ transportCommand P s parser = parseCommand P s (parser ph) := by
  unfold transportCommand
  cases h : s.pseudoHeader with
  | none => exact .inl ⟨rfl, rfl⟩
  | some ph => exact .inr ⟨ph, rfl, rfl⟩

/-! ### The deep-parse sequencer -/

theorem deepFail_eq (s : State) (code : Code) : deepFail s code = s.deepFailed code := rfl

theorem deepStartCmd_cases (P : Params) (kind : Kind) (s : State) :
    (kind = Kind.none ∧ deepStartCmd P kind s = s.fail .illegalCommand 0) ∨
      (kind ≠ Kind.none ∧ ¬ s.windowOk P ∧ deepStartCmd P kind s = s.fail .badWindow 0) ∨
      (kind ≠ Kind.none ∧ s.windowOk P ∧
        deepStartCmd P kind s =
          ((s.setLayers []).setDp
            { state := .parsing, next := kind, off := s.opr.winOff, len := s.opr.winLen, opqOff := 0,
              opqLen := 0 }).succeed) := by
  unfold deepStartCmd
  by_cases hk : kind = Kind.none
  · exact .inl ⟨hk, by rw [if_pos hk]⟩
  · by_cases h : s.windowOk P
    · exact .inr (.inr ⟨hk, h, by rw [if_neg hk, if_neg (not_not.2 h)]⟩)
    · exact .inr (.inl ⟨hk, h, by rw [if_neg hk, if_pos h]⟩)

theorem deepCommand_cases (P : Params) (s : State) (work : Option State) :
    (s.dp.state ≠ .parsing ∧ deepCommand P s work = some (s.fail .badState 0)) ∨
      (s.dp.state = .parsing ∧ ¬ s.deepOk P ∧ deepCommand P s work = some (s.fail .badWindow 0)) ∨
      (s.dp.state = .parsing ∧ s.deepOk P ∧ deepCommand P s work = work) := by
  unfold deepCommand
  by_cases h1 : s.dp.state = .parsing
  · by_cases h2 : s.deepOk P
    · exact .inr (.inr ⟨h1, h2, by rw [if_neg (not_not.2 h1), if_neg (not_not.2 h2)]⟩)
    · exact .inr (.inl ⟨h1, h2, by rw [if_neg (not_not.2 h1), if_pos h2]⟩)
  · exact .inl ⟨h1, by rw [if_pos h1]⟩

/-- `RunParser` has an answer for every kind but `NONE` (44_dispatch_deep R202). -/
theorem runParser_eq_none {P : Params} {s : State} {kind : Kind} {off len : Nat} :
    runParser P s kind off len = none ↔ kind = Kind.none := by
  cases kind <;> simp [runParser]

theorem deepBody_cases (P : Params) (s : State) :
    (P.maxDepth ≤ s.nlayers ∧ deepBody P s = some (s.deepFailed .maxDepthExceeded)) ∨
      (s.nlayers < P.maxDepth ∧ s.dp.next = Kind.none ∧ deepBody P s = none) ∨
      (∃ code, s.nlayers < P.maxDepth ∧
        runParser P s s.dp.next s.dp.off.toNat s.dp.len.toNat = some (.error code) ∧
        deepBody P s = some (s.deepFailed code)) ∨
      (∃ rec, s.nlayers < P.maxDepth ∧
        runParser P s s.dp.next s.dp.off.toNat s.dp.len.toNat = some (.ok rec) ∧
        deepBody P s = some (deepAppend P s rec)) := by
  unfold deepBody
  by_cases h : s.nlayers ≥ P.maxDepth
  · exact .inl ⟨h, by rw [if_pos h]; rfl⟩
  · rw [if_neg h]
    cases hr : runParser P s s.dp.next s.dp.off.toNat s.dp.len.toNat with
    | none => exact .inr (.inl ⟨Nat.not_le.1 h, runParser_eq_none.1 hr, rfl⟩)
    | some r =>
      cases r with
      | error code => exact .inr (.inr (.inl ⟨code, Nat.not_le.1 h, rfl, rfl⟩))
      | ok rec => exact .inr (.inr (.inr ⟨rec, Nat.not_le.1 h, rfl, rfl⟩))

theorem deepLoop_terminal {P : Params} {s : State} (rounds : Nat) (h : s.dp.state ≠ .parsing) :
    deepLoop P rounds s = some s := by
  cases rounds with
  | zero => rfl
  | succ n => rw [deepLoop, if_neg h]

theorem deepLoop_parsing {P : Params} {s : State} (rounds : Nat) (h : s.dp.state = .parsing) :
    deepLoop P (rounds + 1) s = (deepBody P s).bind (deepLoop P rounds) := by
  rw [deepLoop, if_pos h]
  cases deepBody P s <;> rfl

@[simp] theorem deepFailed_state (s : State) (code : Code) : (s.deepFailed code).dp.state = .failed := rfl

@[simp] theorem deepAppend_layers (P : Params) (s : State) (rec : LayerRec) :
    (deepAppend P s rec).layers = s.layers ++ [rec] := rfl

/-- After a layer was decoded the sequencer goes on, or it terminates (44_dispatch_deep R201). -/
theorem sequencerAfter_cases (P : Params) (d : Sequencer) (rec : LayerRec) :
    (dispatch P rec.ind ≠ Kind.none ∧
        sequencerAfter P d rec = { d with next := dispatch P rec.ind, off := rec.payOff, len := rec.payLen }) ∨
      (dispatch P rec.ind = Kind.none ∧
        sequencerAfter P d rec =
          { state := .terminated, next := Kind.none, off := rec.payOff, len := rec.payLen,
            opqOff := rec.payOff, opqLen := rec.payLen }) := by
  unfold sequencerAfter
  by_cases h : dispatch P rec.ind = Kind.none
  · exact .inr ⟨h, if_neg (not_not.2 h)⟩
  · exact .inl ⟨h, if_pos h⟩

theorem deepOutcome_eq_next {r : Option State} {t : State} : deepOutcome r = .next t ↔ r = some t := by
  cases r <;> simp [deepOutcome]

/-! ### The host and the step -/

theorem HostOp.command_eq_some {op : HostOp} {w : Word} : op.command = some w ↔ op = .write .byte4 0 w := by
  cases op with
  | write size addr data =>
    cases size <;> simp only [HostOp.command, reduceCtorEq, HostOp.write.injEq, false_and, true_and]
    by_cases h : addr = 0 <;> simp [h]
  | read size addr => simp [HostOp.command]
  | load off bytes => simp [HostOp.command]
  | reset => simp [HostOp.command]

/-- Everything a host write that is no command can do: nothing, an operand register, or bytes of `BUF`. -/
theorem hostWrite_cases (P : Params) (s : State) (size : AccessSize) (addr : BitVec 17) (d : Word) :
    hostWrite P s size addr d = s ∨
      (∃ a, hostWrite P s size addr d = s.setOpr (writeOperand s.opr a d)) ∨
      ∃ a, a + size.bytes ≤ P.bufSize ∧
        hostWrite P s size addr d = s.setMem (Memory.putBytes s.mem a (laneBytes d size.bytes)) := by
  unfold hostWrite
  split
  · rename_i hr
    split
    · exact .inr (.inl ⟨_, rfl⟩)
    · exact .inl rfl
    · rename_i a hreg
      simp only [accessReaches, hreg, decide_eq_true_eq] at hr
      exact .inr (.inr ⟨_, hr.2, rfl⟩)
    · exact .inl rfl
  · exact .inl rfl

theorem hostLoad_cases (P : Params) (s : State) (off : Nat) (bytes : List Byte) :
    (off + bytes.length ≤ P.bufSize ∧ hostLoad P s off bytes = some (s.setMem (Memory.putBytes s.mem off bytes))) ∨
      (P.bufSize < off + bytes.length ∧ hostLoad P s off bytes = none) := by
  unfold hostLoad
  by_cases h : off + bytes.length ≤ P.bufSize
  · exact .inl ⟨h, if_pos h⟩
  · exact .inr ⟨Nat.not_le.1 h, if_neg h⟩

/-- Everything a step can do (20_memory R70, 30_encoding R83). -/
theorem step_cases (s : State) :
    (s.hostOps = [] ∧ step s = .next s) ∨
      (∃ w i rest, s.hostOps = .write .byte4 0 w :: rest ∧ decode w = .cmd i ∧
        step s = exec i (s.setHostOps rest)) ∨
      (∃ w why rest, s.hostOps = .write .byte4 0 w :: rest ∧ decode w = .illegal why ∧
        step s = .next ((s.setHostOps rest).fail .illegalCommand 0)) ∨
      ∃ op rest, s.hostOps = op :: rest ∧ op.command = none ∧
        step s = hostAccess build op (s.setHostOps rest) := by
  unfold step
  cases hs : s.hostOps with
  | nil => exact .inl ⟨rfl, rfl⟩
  | cons op rest =>
    cases hc : op.command with
    | none => exact .inr (.inr (.inr ⟨op, rest, rfl, hc, by simp only [hc]⟩))
    | some w =>
      rw [HostOp.command_eq_some] at hc
      subst hc
      cases hd : decode w with
      | cmd i => exact .inr (.inl ⟨w, i, rest, rfl, hd, by simp [HostOp.command, runCommand, hd]⟩)
      | illegal why =>
        exact .inr (.inr (.inl ⟨w, why, rest, rfl, hd, by simp [HostOp.command, runCommand, hd, illegalWord]⟩))

/-- Everything a host operation that is no command can do. -/
theorem hostAccess_cases (P : Params) (op : HostOp) (s : State) :
    (∃ d, hostAccess P op s = .next (s.setReadData d)) ∨
      hostAccess P op s = .next s ∨
      (∃ o, hostAccess P op s = .next (s.setOpr o)) ∨
      (∃ a bytes, a + bytes.length ≤ P.bufSize ∧
        hostAccess P op s = .next (s.setMem (Memory.putBytes s.mem a bytes))) ∨
      hostAccess P op s = .next (platformReset s) ∨
      hostAccess P op s = .fault .loadOutsideBuffer := by
  cases op with
  | read size addr => exact .inl ⟨_, rfl⟩
  | write size addr data =>
    unfold hostAccess
    rcases hostWrite_cases P s size addr data with h | ⟨a, h⟩ | ⟨a, ha, h⟩ <;> dsimp only <;> rw [h]
    · exact .inr (.inl rfl)
    · exact .inr (.inr (.inl ⟨_, rfl⟩))
    · exact .inr (.inr (.inr (.inl ⟨a, _, by simpa using ha, rfl⟩)))
  | load off bytes =>
    unfold hostAccess
    rcases hostLoad_cases P s off bytes with ⟨hl, h⟩ | ⟨hl, h⟩ <;> dsimp only <;> rw [h]
    · exact .inr (.inr (.inr (.inl ⟨_, _, hl, rfl⟩)))
    · exact .inr (.inr (.inr (.inr (.inr rfl))))
  | reset => exact .inr (.inr (.inr (.inr (.inl rfl))))

/-! ### The default build -/

theorem build_admissible : build.Admissible where
  bufSize_min := by decide
  bufSize_max := by decide
  maxDepth_min := by decide
  maxDepth_max := by decide
  etype_range v := by simp only [build, defaultEtypeTable]; split_ifs <;> simp
  ipproto_range v := by simp only [build, defaultIpprotoTable]; split_ifs <;> simp
  etype_ip4 := ⟨0x0800, by decide⟩
  etype_ip6 := ⟨0x86DD, by decide⟩
  ipproto_tcp := ⟨6, by decide⟩
  ipproto_udp := ⟨17, by decide⟩
  ipproto_icmp := ⟨1, by decide⟩
  ipproto_unassigned := by decide
  ipproto_extension := by decide

end Sys2Proof.Machine
end

