-- ==== Sys2Proof/Laws/Host.lean ====
section
/-! SUPPORT. The host side: the region of each address, and the step that reads, writes, loads or resets. -/

namespace Sys2Proof.Machine

/-! ### The address map -/

/-- The region of every address (20_memory R68). -/
theorem regionOf_cases (P : Params) (addr : BitVec 17) :
    (addr.toNat < 0x1000 ∧ regionOf P addr = .register addr.toNat) ∨
      (0x1000 ≤ addr.toNat ∧ addr.toNat < 0x10000 ∧ (addr.toNat - 0x1000) / 0x80 < P.maxDepth ∧
        regionOf P addr =
          .layer ((addr.toNat - 0x1000) / 0x80) ((addr.toNat - 0x1000) % 0x80 / 4)) ∨
      (0x1000 ≤ addr.toNat ∧ addr.toNat < 0x10000 ∧ P.maxDepth ≤ (addr.toNat - 0x1000) / 0x80 ∧
        regionOf P addr = .reserved) ∨
      (0x10000 ≤ addr.toNat ∧ regionOf P addr = .buffer (addr.toNat - 0x10000)) := by
  unfold regionOf layerBase bufBase slotBytes
  dsimp only
  by_cases h1 : addr.toNat < 0x1000
  · exact .inl ⟨h1, if_pos h1⟩
  · by_cases h2 : addr.toNat < 0x10000
    · by_cases h3 : (addr.toNat - 0x1000) / 0x80 < P.maxDepth
      · exact .inr (.inl ⟨by omega, h2, h3, by rw [if_neg h1, if_pos h2, if_pos h3]⟩)
      · exact .inr (.inr (.inl ⟨by omega, h2, by omega, by rw [if_neg h1, if_pos h2, if_neg h3]⟩))
    · exact .inr (.inr (.inr ⟨by omega, by rw [if_neg h1, if_neg h2]⟩))

theorem regionOf_register {P : Params} {addr : BitVec 17} (h : addr.toNat < 0x1000) :
    regionOf P addr = .register addr.toNat := by
  rcases regionOf_cases P addr with ⟨_, h'⟩ | ⟨_, _⟩ | ⟨_, _⟩ | ⟨_, _⟩
  · exact h'
  all_goals omega

theorem regionOf_buffer {P : Params} {addr : BitVec 17} (h : 0x10000 ≤ addr.toNat) :
    regionOf P addr = .buffer (addr.toNat - 0x10000) := by
  rcases regionOf_cases P addr with ⟨_, _⟩ | ⟨_, _, _⟩ | ⟨_, _, _⟩ | ⟨_, h'⟩
  · omega
  · omega
  · omega
  · exact h'

/-- Below the buffer window only aligned words reach anything (20_memory R66). -/
theorem accessReaches_below {P : Params} {size : AccessSize} {addr : BitVec 17} (h : addr.toNat < 0x10000)
    (hs : size ≠ .byte4 ∨ addr.toNat % 4 ≠ 0) : accessReaches P size addr = false := by
  unfold accessReaches
  rcases regionOf_cases P addr with ⟨_, h'⟩ | ⟨_, _, _, h'⟩ | ⟨_, _, _, h'⟩ | ⟨h', _⟩
  · rw [h']; simp; tauto
  · rw [h']; simp; tauto
  · rw [h']
  · omega

/-- In the register block an aligned word reaches its register. -/
theorem accessReaches_register {P : Params} {addr : BitVec 17} (h : addr.toNat < 0x1000)
    (ha : addr.toNat % 4 = 0) : accessReaches P .byte4 addr = true := by
  simp [accessReaches, regionOf_register h, ha]

/-- In the buffer window an access reaches its bytes when it is naturally aligned and inside (20_memory R64). -/
theorem accessReaches_buffer {P : Params} {size : AccessSize} {addr : BitVec 17} (h : 0x10000 ≤ addr.toNat) :
    accessReaches P size addr = true ↔
      addr.toNat % size.bytes = 0 ∧ addr.toNat - 0x10000 + size.bytes ≤ P.bufSize := by
  simp [accessReaches, regionOf_buffer h]

/-! ### The steps of the host -/

theorem step_read {s : State} {size : AccessSize} {addr : BitVec 17} {rest : List HostOp}
    (h : s.hostOps = .read size addr :: rest) :
    step s = .next ((s.setHostOps rest).setReadData (readValue build (s.setHostOps rest) size addr)) := by
  simp [step, h, HostOp.command, hostAccess, hostRead]

theorem step_write {s : State} {size : AccessSize} {addr : BitVec 17} {d : Word} {rest : List HostOp}
    (h : s.hostOps = .write size addr d :: rest) (hc : size ≠ .byte4 ∨ addr ≠ 0) :
    step s = .next (hostWrite build (s.setHostOps rest) size addr d) := by
  have hn : (HostOp.write size addr d).command = none := by
    rw [← Option.not_isSome_iff_eq_none, Option.isSome_iff_exists]
    rintro ⟨w, hw⟩
    rw [HostOp.command_eq_some] at hw
    cases hw
    simp at hc
  simp [step, h, hn, hostAccess]

theorem step_command {s : State} {w : Word} {rest : List HostOp} (h : s.hostOps = .write .byte4 0 w :: rest) :
    step s = runCommand w (s.setHostOps rest) := by
  simp [step, h, HostOp.command]

theorem step_load {s : State} {off : Nat} {bytes : List Byte} {rest : List HostOp}
    (h : s.hostOps = .load off bytes :: rest) (hb : off + bytes.length ≤ build.bufSize) :
    step s = .next ((s.setHostOps rest).setMem (Memory.putBytes s.mem off bytes)) := by
  simp [step, h, HostOp.command, hostAccess, hostLoad, hb]

theorem step_reset {s : State} {rest : List HostOp} (h : s.hostOps = .reset :: rest) :
    step s = .next (platformReset (s.setHostOps rest)) := by
  simp [step, h, HostOp.command, hostAccess]

/-! ### Bytes and lanes -/

/-- A byte of the state after a byte list was stored. -/
theorem byteAt_putBytes (s : State) (off a : Nat) (bytes : List Byte) :
    (s.setMem (Memory.putBytes s.mem off bytes)).byteAt a =
      if h : off ≤ a ∧ a < off + bytes.length then bytes[a - off]'(by omega) else s.byteAt a := by
  unfold State.byteAt
  simp only [State.setMem_mem, State.setMem_resets, Memory.stored_putBytes]
  by_cases h : off ≤ a ∧ a < off + bytes.length
  · have hl : a - off < bytes.length := by omega
    simp only [h, and_self, if_true, dif_pos, List.getElem?_eq_getElem hl]
  · simp only [if_neg h, dif_neg h]

theorem laneBytes_getElem (d : Word) (n i : Nat) (h : i < n) :
    (laneBytes d n)[i]'(by rw [laneBytes_length]; exact h) = d.extractLsb' (8 * i) 8 := by
  induction n generalizing d i with
  | zero => omega
  | succ n ih =>
    cases i with
    | zero => rfl
    | succ i =>
      simp only [laneBytes, List.getElem_cons_succ]
      rw [ih (d >>> 8) i (by omega)]
      apply BitVec.eq_of_getLsbD_eq
      intro j hj
      have h8 : 8 + (8 * i + j) = 8 * (i + 1) + j := by omega
      simp [hj, h8]

end Sys2Proof.Machine
end

