-- ==== Sys2Proof/Laws/PerInstr.lean ====
section
/-! SUPPORT. Families of statements with one lemma per constructor of `Instr`. -/

namespace Sys2Proof.Laws

/-- The command word of every instruction has `RSV = 0`, and its other two fields are the instruction's `OPCODE` and
`SEL` (30_encoding R80). -/
def RsvZero.Statement (i : Instr) : Prop :=
  cmdRsv (encode i) = 0 ∧ cmdOpcode (encode i) = i.opcode ∧ cmdSel (encode i) = i.sel

theorem RsvZero.nop : RsvZero.Statement .nop := ⟨rfl, rfl, rfl⟩

theorem RsvZero.curOpen : RsvZero.Statement .curOpen := ⟨rfl, rfl, rfl⟩

theorem RsvZero.curRd8 : RsvZero.Statement .curRd8 := ⟨rfl, rfl, rfl⟩

theorem RsvZero.curRd16 : RsvZero.Statement .curRd16 := ⟨rfl, rfl, rfl⟩

theorem RsvZero.curRd32 : RsvZero.Statement .curRd32 := ⟨rfl, rfl, rfl⟩

theorem RsvZero.curRdb : RsvZero.Statement .curRdb := ⟨rfl, rfl, rfl⟩

theorem RsvZero.curPeek : RsvZero.Statement .curPeek := ⟨rfl, rfl, rfl⟩

theorem RsvZero.curRem : RsvZero.Statement .curRem := ⟨rfl, rfl, rfl⟩

theorem RsvZero.curSkip : RsvZero.Statement .curSkip := ⟨rfl, rfl, rfl⟩

theorem RsvZero.csumIp4 : RsvZero.Statement .csumIp4 := ⟨rfl, rfl, rfl⟩

theorem RsvZero.csumXport (proto : Xport) : RsvZero.Statement (.csumXport proto) := by
  cases proto <;> exact ⟨rfl, rfl, rfl⟩

theorem RsvZero.parseEth : RsvZero.Statement .parseEth := ⟨rfl, rfl, rfl⟩

theorem RsvZero.parseVlan : RsvZero.Statement .parseVlan := ⟨rfl, rfl, rfl⟩

theorem RsvZero.parseIp4 : RsvZero.Statement .parseIp4 := ⟨rfl, rfl, rfl⟩

theorem RsvZero.parseIp6 : RsvZero.Statement .parseIp6 := ⟨rfl, rfl, rfl⟩

theorem RsvZero.parseTcp : RsvZero.Statement .parseTcp := ⟨rfl, rfl, rfl⟩

theorem RsvZero.parseUdp : RsvZero.Statement .parseUdp := ⟨rfl, rfl, rfl⟩

theorem RsvZero.parseIcmp : RsvZero.Statement .parseIcmp := ⟨rfl, rfl, rfl⟩

theorem RsvZero.dispEtype : RsvZero.Statement .dispEtype := ⟨rfl, rfl, rfl⟩

theorem RsvZero.dispIpproto : RsvZero.Statement .dispIpproto := ⟨rfl, rfl, rfl⟩

theorem RsvZero.deepStart (kind : Kind) : RsvZero.Statement (.deepStart kind) := by
  cases kind <;> exact ⟨rfl, rfl, rfl⟩

theorem RsvZero.deepStep : RsvZero.Statement .deepStep := ⟨rfl, rfl, rfl⟩

theorem RsvZero.deepRun : RsvZero.Statement .deepRun := ⟨rfl, rfl, rfl⟩

theorem RsvZero.clear : RsvZero.Statement .clear := ⟨rfl, rfl, rfl⟩

end Sys2Proof.Laws
end

