-- ==== Sys2Proof/Laws/Records.lean ====
section
/-! SUPPORT. Each parser function answers the first failure or the record that Safety.lean spells out. -/

namespace Sys2Proof.Machine

/-- What a parser answers, in the terms of the statements: its first failure, else its record. -/
def answerOf (failure : Option Code) (rec : LayerRec) : Except Code LayerRec :=
  match failure with
  | some code => .error code
  | none => .ok rec

@[simp] theorem answerOf_some (code : Code) (rec : LayerRec) : answerOf (some code) rec = .error code := rfl
@[simp] theorem answerOf_none (rec : LayerRec) : answerOf none rec = .ok rec := rfl

theorem answerOf_ite (c : Prop) [Decidable c] (a b : Option Code) (rec : LayerRec) :
    answerOf (if c then a else b) rec = if c then answerOf a rec else answerOf b rec := by
  split <;> rfl

/-! ### Sub-fields that cross or split bytes -/

theorem half_bit (a b : Byte) (i : Nat) :
    (a ++ b : Half).getLsbD i = if i < 8 then b.getLsbD i else a.getLsbD (i - 8) := BitVec.getLsbD_append

theorem word_bit (x y : Half) (i : Nat) :
    (x ++ y : Word).getLsbD i = if i < 16 then y.getLsbD i else x.getLsbD (i - 16) := BitVec.getLsbD_append

theorem halfAppend_hi (a b : Byte) (w : Nat) (start : Nat) :
    (a ++ b : Half).extractLsb' (8 + start) w = a.extractLsb' start w := by
  apply BitVec.eq_of_getLsbD_eq
  intro i hi
  rw [BitVec.getLsbD_extractLsb', BitVec.getLsbD_extractLsb', half_bit, if_neg (by omega),
    show 8 + start + i - 8 = start + i by omega]

theorem halfAppend_low12 (a b : Byte) :
    (a ++ b : Half).extractLsb' 0 12 = (a.extractLsb' 0 4 ++ b : BitVec 12) := by
  apply BitVec.eq_of_getLsbD_eq
  intro i hi
  rw [BitVec.getLsbD_extractLsb', half_bit,
    show (a.extractLsb' 0 4 ++ b : BitVec 12).getLsbD i = _ from BitVec.getLsbD_append, Nat.zero_add]
  by_cases h : i < 8
  · simp [h, hi]
  · simp [h, hi, show i - 8 < 4 by omega]

theorem halfAppend_low13 (a b : Byte) :
    (a ++ b : Half).extractLsb' 0 13 = (a.extractLsb' 0 5 ++ b : BitVec 13) := by
  apply BitVec.eq_of_getLsbD_eq
  intro i hi
  rw [BitVec.getLsbD_extractLsb', half_bit,
    show (a.extractLsb' 0 5 ++ b : BitVec 13).getLsbD i = _ from BitVec.getLsbD_append, Nat.zero_add]
  by_cases h : i < 8
  · simp [h, hi]
  · simp [h, hi, show i - 8 < 5 by omega]

theorem wordAppend_tclass (a b c d : Byte) :
    ((a ++ b : Half) ++ (c ++ d : Half) : Word).extractLsb' 20 8 =
      (a.extractLsb' 0 4 ++ b.extractLsb' 4 4 : Byte) := by
  apply BitVec.eq_of_getLsbD_eq
  intro i hi
  rw [BitVec.getLsbD_extractLsb', word_bit, if_neg (by omega), half_bit,
    show (a.extractLsb' 0 4 ++ b.extractLsb' 4 4 : Byte).getLsbD i = _ from BitVec.getLsbD_append,
    BitVec.getLsbD_extractLsb', BitVec.getLsbD_extractLsb']
  by_cases h : i < 4
  · simp [h, hi, show 20 + i - 16 = 4 + i by omega, show 4 + i < 8 by omega]
  · simp [h, hi, show 20 + i - 16 = 4 + i by omega, show ¬ 4 + i < 8 by omega, show 4 + i - 8 = i - 4 by omega,
      show i - 4 < 4 by omega]

theorem wordAppend_flow (a b c d : Byte) :
    ((a ++ b : Half) ++ (c ++ d : Half) : Word).extractLsb' 0 20 =
      (b.extractLsb' 0 4 ++ c ++ d : BitVec 20) := by
  apply BitVec.eq_of_getLsbD_eq
  intro i hi
  rw [BitVec.getLsbD_extractLsb', word_bit, half_bit, half_bit, Nat.zero_add,
    show (b.extractLsb' 0 4 ++ c ++ d : BitVec 20).getLsbD i = _ from BitVec.getLsbD_append,
    show (b.extractLsb' 0 4 ++ c : BitVec 12).getLsbD (i - 8) = _ from BitVec.getLsbD_append,
    BitVec.getLsbD_extractLsb']
  by_cases h8 : i < 8
  · simp [h8, hi, show i < 16 by omega]
  · by_cases h16 : i < 16
    · simp [h8, h16, hi, show i - 8 < 8 by omega]
    · simp [h8, h16, hi, show ¬ i - 8 < 8 by omega, show i - 16 = i - 8 - 8 by omega,
        show i - 8 - 8 < 4 by omega, show i - 8 - 8 < 8 by omega]

theorem State.be16_hi4 (s : State) (a : Nat) : (s.be16 a).extractLsb' 12 4 = (s.byteAt a).extractLsb' 4 4 :=
  halfAppend_hi _ _ 4 4

theorem State.be16_hi3 (s : State) (a : Nat) : (s.be16 a).extractLsb' 13 3 = (s.byteAt a).extractLsb' 5 3 :=
  halfAppend_hi _ _ 3 5

theorem State.be16_low12 (s : State) (a : Nat) :
    (s.be16 a).extractLsb' 0 12 = ((s.byteAt a).extractLsb' 0 4 ++ s.byteAt (a + 1) : BitVec 12) :=
  halfAppend_low12 _ _

theorem State.be16_low13 (s : State) (a : Nat) :
    (s.be16 a).extractLsb' 0 13 = ((s.byteAt a).extractLsb' 0 5 ++ s.byteAt (a + 1) : BitVec 13) :=
  halfAppend_low13 _ _

theorem State.be32_tclass (s : State) (a : Nat) :
    (s.be32 a).extractLsb' 20 8 = ((s.byteAt a).extractLsb' 0 4 ++ (s.byteAt (a + 1)).extractLsb' 4 4 : Byte) :=
  wordAppend_tclass _ _ _ _

theorem State.be32_flow (s : State) (a : Nat) :
    (s.be32 a).extractLsb' 0 20 =
      ((s.byteAt (a + 1)).extractLsb' 0 4 ++ s.byteAt (a + 2) ++ s.byteAt (a + 3) : BitVec 20) :=
  wordAppend_flow _ _ _ _

/-! ### Ethernet and 802.1Q -/

theorem ethHdr_eq (P : Params) (s : State) (off : Nat) : ethHdr P s.byteAt off = s.ethHeader P off := by
  simp [ethHdr, ethTagged, State.ethHeader, State.memRead_be16]

theorem ethRec_eq (P : Params) (s : State) (off len : Nat) :
    ethRec P s.byteAt off len s.opr.fcsEn = s.ethRecord P off len := by
  unfold ethRec State.ethRecord ethTypeAt
  simp only [ethHdr_eq, State.memRead_be16, State.memRead_be32, State.memRead_be48]
  by_cases ht : s.be16 (off + 12) = P.tpid <;> cases s.opr.fcsEn <;>
    simp [ht, State.ethHeader, mkRec]

/-- Everything `ParseEth` can do (42_parsers_link_net R143). -/
theorem parseEth_answer (P : Params) (s : State) (off len : Nat) (ph : PseudoHeader) :
    parseEth P s.byteAt off len s.opr.fcsEn = answerOf (s.firstFailure P .eth off len ph) (s.ethRecord P off len) := by
  simp only [State.firstFailure, answerOf_ite, answerOf_some, answerOf_none]
  by_cases hm : s.opr.fcsEn = true ∧ len < P.ethMinFrame
  · rw [if_pos hm, hm.1, parseEth_malformed hm.2]
  · have hm' : s.opr.fcsEn = true → P.ethMinFrame ≤ len := fun h => by
      by_contra hc
      exact hm ⟨h, by omega⟩
    rw [if_neg hm]
    by_cases h : ethHdr P s.byteAt off ≤ len
    · rw [parseEth_ok hm' h, ethRec_eq]
      rw [ethHdr_eq, State.ethHeader] at h
      by_cases ht : s.be16 (off + 12) = P.tpid
      · rw [if_pos ht] at h
        rw [if_neg (by omega), if_neg (by rintro ⟨_, h18⟩; omega)]
      · rw [if_neg ht] at h
        rw [if_neg (by omega), if_neg (fun hc => ht hc.1)]
    · rw [parseEth_short hm' (by omega)]
      rw [ethHdr_eq, State.ethHeader] at h
      by_cases ht : s.be16 (off + 12) = P.tpid
      · rw [if_pos ht] at h
        by_cases h14 : len < 14
        · rw [if_pos h14]
        · rw [if_neg h14, if_pos ⟨ht, by omega⟩]
      · rw [if_neg ht] at h
        rw [if_pos (by omega)]

/-- Everything `ParseVlan` can do (42_parsers_link_net R145). -/
theorem parseVlan_answer (P : Params) (s : State) (off len : Nat) (ph : PseudoHeader) :
    parseVlan s.byteAt off len = answerOf (s.firstFailure P .vlan off len ph) (s.vlanRecord off len) := by
  simp only [State.firstFailure, answerOf_ite, answerOf_some, answerOf_none]
  by_cases h : len < 4
  · rw [parseVlan_short h, if_pos h]
  · rw [parseVlan_ok (by omega), if_neg h]
    simp [vlanRec, State.vlanRecord, mkRec, State.memRead_be16]

/-! ### Checksums -/

/-- The verdict of a transport checksum, in the terms of the statements (41_checksum R127). -/
theorem verifyXport_valid (s : State) (ph : PseudoHeader) {off n p : Nat} (h : p + 2 ≤ n) :
    (verifyXport ph s.byteAt off n p).valid = s.checksumHolds ph off n p := by
  simp only [Verdict.valid, verifyXport, storedField_bytesFrom _ h, State.checksumHolds, State.be16]
  rfl

/-- The verdict of an IPv4 header checksum, in the terms of the statements (41_checksum R124). -/
theorem verifyIp4_valid (s : State) {off n : Nat} (h : 12 ≤ n) :
    (verifyIp4 s.byteAt off n).valid = s.checksumHolds PseudoHeader.absent off n 10 := by
  rw [← verifyXport_valid s PseudoHeader.absent h]
  rfl

/-! ### IPv4 and IPv6 -/

theorem ip4Hdr_eq (s : State) (off : Nat) : ip4Hdr s.byteAt off = 4 * s.ihl off := by
  simp [ip4Hdr, ip4FieldsAt, memRead_8, State.ihl]

theorem ip4Rec_eq {s : State} {off len : Nat} (hv : s.version off = 4) (h5 : 5 ≤ s.ihl off) :
    ip4Rec s.byteAt off len = s.ip4Record off len := by
  have hver : (s.byteAt off).extractLsb' 4 4 = 4 := BitVec.eq_of_toNat_eq hv
  have hopt : off + 4 * s.ihl off - (4 * s.ihl off - 20) = off + 20 := by omega
  unfold ip4Rec State.ip4Record ip4Valid mkRec
  simp only [ip4Hdr_eq, hopt, verifyIp4_valid s (show 12 ≤ 4 * s.ihl off by omega), ip4FieldsAt, memRead_8,
    State.memRead_be16, State.memRead_be32, State.be16_hi3, State.be16_low13, hver]

/-- Everything `ParseIp4` can do (42_parsers_link_net R148). -/
theorem parseIp4_answer (P : Params) (s : State) (off len : Nat) (ph : PseudoHeader) :
    parseIp4 s.byteAt off len s.opr.strict = answerOf (s.firstFailure P .ip4 off len ph) (s.ip4Record off len) := by
  have hver : (ip4FieldsAt s.byteAt off).version = (s.byteAt off).extractLsb' 4 4 := by
    simp [ip4FieldsAt, memRead_8]
  have hihl : (ip4FieldsAt s.byteAt off).ihl.toNat = s.ihl off := by simp [ip4FieldsAt, memRead_8, State.ihl]
  have hv4 : (s.byteAt off).extractLsb' 4 4 = 4 ↔ s.version off = 4 :=
    ⟨fun h => by rw [State.version, h]; rfl, fun h => BitVec.eq_of_toNat_eq h⟩
  rw [parseIp4_eq, hihl, ip4Hdr_eq, hver]
  simp only [State.firstFailure, answerOf_ite, answerOf_some, answerOf_none, ne_eq, hv4, gt_iff_lt]
  by_cases h0 : len = 0
  · rw [if_pos h0, if_pos h0]
  · rw [if_neg h0, if_neg h0]
    by_cases hv : s.version off = 4
    · rw [if_neg (not_not.2 hv), if_neg (not_not.2 hv)]
      by_cases h5 : s.ihl off < 5
      · rw [if_pos h5, if_pos h5]
      · rw [if_neg h5, if_neg h5, ip4Valid, ip4Hdr_eq, verifyIp4_valid s (by omega), ip4Rec_eq hv (by omega)]
    · rw [if_pos hv, if_pos hv]

theorem ip6Rec_eq {s : State} {off len : Nat} (hv : s.version off = 6) :
    ip6Rec s.byteAt off len = s.ip6Record off len := by
  have hver : (s.byteAt off).extractLsb' 4 4 = 6 := BitVec.eq_of_toNat_eq hv
  unfold ip6Rec State.ip6Record mkRec
  simp only [ip6FieldsAt, memRead_8, State.memRead_be16, State.memRead_be32, State.memRead_be128,
    State.be32_tclass, State.be32_flow, hver]
  rfl

/-- Everything `ParseIp6` can do (42_parsers_link_net R155). -/
theorem parseIp6_answer (P : Params) (s : State) (off len : Nat) (ph : PseudoHeader) :
    parseIp6 s.byteAt off len = answerOf (s.firstFailure P .ip6 off len ph) (s.ip6Record off len) := by
  have hver : (ip6FieldsAt s.byteAt off).version = (s.byteAt off).extractLsb' 4 4 := by
    simp [ip6FieldsAt, memRead_8]
  have hv6 : (s.byteAt off).extractLsb' 4 4 = 6 ↔ s.version off = 6 :=
    ⟨fun h => by rw [State.version, h]; rfl, fun h => BitVec.eq_of_toNat_eq h⟩
  rw [parseIp6_eq, hver]
  simp only [State.firstFailure, answerOf_ite, answerOf_some, answerOf_none, ne_eq, hv6]
  by_cases h0 : len = 0
  · rw [if_pos h0, if_pos h0]
  · rw [if_neg h0, if_neg h0]
    by_cases hv : s.version off = 6
    · rw [if_neg (not_not.2 hv), if_neg (not_not.2 hv), ip6Rec_eq hv]
    · rw [if_pos hv, if_pos hv]

/-! ### Transport -/

theorem doff_eq (s : State) (off : Nat) :
    (memRead s.byteAt 16 (off + 12)).extractLsb' 12 4 = (s.byteAt (off + 12)).extractLsb' 4 4 := by
  rw [State.memRead_be16, State.be16_hi4]

theorem tcpHdr_eq (s : State) (off : Nat) : tcpHdr s.byteAt off = 4 * s.doff off := by
  simp only [tcpHdr, tcpFieldsAt, doff_eq, State.doff]

theorem tcpRec_eq {s : State} {off len : Nat} {ph : PseudoHeader} (h20 : 20 ≤ len) (h5 : 5 ≤ s.doff off) :
    tcpRec s.byteAt off len ph = s.tcpRecord off len ph := by
  have hopt : off + 4 * s.doff off - (4 * s.doff off - 20) = off + 20 := by omega
  unfold tcpRec State.tcpRecord mkRec xportValid
  simp only [tcpHdr_eq, hopt, verifyXport_valid s ph (show csumPos .tcp + 2 ≤ len by simp [csumPos]; omega),
    tcpFieldsAt, State.memRead_be16, State.memRead_be32, State.be16_hi4, State.be16_low12]
  rfl

/-- Everything `ParseTcp` can do (43_parsers_transport R172). -/
theorem parseTcp_answer (P : Params) (s : State) (off len : Nat) (ph : PseudoHeader) :
    parseTcp s.byteAt off len ph s.opr.strict =
      answerOf (s.firstFailure P .tcp off len ph) (s.tcpRecord off len ph) := by
  have hd : (tcpFieldsAt s.byteAt off).doff.toNat = s.doff off := by simp only [tcpFieldsAt, doff_eq, State.doff]
  rw [parseTcp_eq, hd, tcpHdr_eq]
  simp only [State.firstFailure, answerOf_ite, answerOf_some, answerOf_none, gt_iff_lt]
  by_cases h20 : len < 20
  · rw [if_pos h20, if_pos h20]
  · rw [if_neg h20, if_neg h20]
    by_cases h5 : s.doff off < 5
    · rw [if_pos h5, if_pos h5]
    · rw [if_neg h5, if_neg h5, tcpRec_eq (by omega) (by omega), xportValid,
        verifyXport_valid s ph (show csumPos .tcp + 2 ≤ len by simp [csumPos]; omega)]
      rfl

/-- Everything `ParseUdp` can do (43_parsers_transport R177). -/
theorem parseUdp_answer (P : Params) (s : State) (off len : Nat) (ph : PseudoHeader) :
    parseUdp s.byteAt off len ph s.opr.strict =
      answerOf (s.firstFailure P .udp off len ph) (s.udpRecord off len ph) := by
  have hm : udpMismatch s.byteAt off len = decide ((s.be16 (off + 4)).toNat ≠ len) := by
    simp only [udpMismatch, udpFieldsAt, State.memRead_be16]
  rw [parseUdp_eq, hm]
  simp only [State.firstFailure, answerOf_ite, answerOf_some, answerOf_none, decide_eq_true_eq]
  by_cases h8 : len < 8
  · rw [if_pos h8, if_pos h8]
  · rw [if_neg h8, if_neg h8, xportValid,
      verifyXport_valid s ph (show csumPos .udp + 2 ≤ len by simp [csumPos]; omega)]
    have hr : udpRec s.byteAt off len ph = s.udpRecord off len ph := by
      unfold udpRec State.udpRecord mkRec xportValid
      simp only [verifyXport_valid s ph (show csumPos .udp + 2 ≤ len by simp [csumPos]; omega), hm,
        udpFieldsAt, State.memRead_be16]
      rfl
    rw [hr]
    rfl

/-- Everything `ParseIcmp` can do (43_parsers_transport R182). -/
theorem parseIcmp_answer (P : Params) (s : State) (off len : Nat) (ph : PseudoHeader) :
    parseIcmp s.byteAt off len ph s.opr.strict =
      answerOf (s.firstFailure P .icmp off len ph) (s.icmpRecord off len ph) := by
  rw [parseIcmp_eq]
  simp only [State.firstFailure, answerOf_ite, answerOf_some, answerOf_none]
  by_cases h4 : len < 4
  · rw [if_pos h4, if_pos h4]
  · rw [if_neg h4, if_neg h4, xportValid,
      verifyXport_valid s ph (show csumPos .icmp + 2 ≤ len by simp [csumPos]; omega)]
    have hr : icmpRec s.byteAt off len ph = s.icmpRecord off len ph := by
      unfold icmpRec State.icmpRecord mkRec xportValid
      simp only [verifyXport_valid s ph (show csumPos .icmp + 2 ≤ len by simp [csumPos]; omega),
        icmpFieldsAt, memRead_8, State.memRead_be16]
      rfl
    rw [hr]
    rfl

/-! ### The parser of a deep-parse step -/

/-- Everything `RunParser` can do (44_dispatch_deep R202): no answer for `NONE`; for every other kind its first
failure, else its record, with the pseudo-header of the layer below. -/
theorem runParser_answer (P : Params) (s : State) (kind : Kind) (off len : Nat) :
    runParser P s kind off len =
      (s.layerRecord P kind off len (deepPh s.layers kind len)).map
        (answerOf (s.firstFailure P kind off len (deepPh s.layers kind len))) := by
  cases kind
  · rfl
  · exact congrArg some (parseEth_answer P s off len _)
  · exact congrArg some (parseVlan_answer P s off len _)
  · exact congrArg some (parseIp4_answer P s off len _)
  · exact congrArg some (parseIp6_answer P s off len _)
  · exact congrArg some (parseTcp_answer P s off len _)
  · exact congrArg some (parseUdp_answer P s off len _)
  · exact congrArg some (parseIcmp_answer P s off len _)

end Sys2Proof.Machine
end

