-- ==== Sys2Proof/Tests/Slice0.lean ====
section
/-! SUPPORT. Tests: written-out command words, one-step vectors of 95_test_vectors and of the rules' examples, and a
witness for the hypotheses of every obligation that has some. Expected values are the spec's. -/

namespace Sys2Proof.Tests

open Sys2Proof.Machine

/-! ### Helpers -/

/-- A byte string. -/
def hex (ns : List Nat) : List Byte := ns.map (BitVec.ofNat 8)

/-- A buffer that holds a byte string from address 0. -/
def bufferOf (ns : List Nat) : Memory := Memory.putBytes [] 0 (hex ns)

/-- The state after `FRAME ns` from reset (30_encoding R87). -/
def framed (ns : List Nat) : State :=
  { State.reset with
    mem := bufferOf ns,
    opr := { Operands.reset with bufLen := BitVec.ofNat 32 ns.length, winLen := BitVec.ofNat 32 ns.length } }

/-- `WIN off, len`. -/
def win (off len : Word) (s : State) : State := { s with opr := { s.opr with winOff := off, winLen := len } }

/-- `WR CFG.STRICT, 1`. -/
def strictly (s : State) : State := { s with opr := { s.opr with strict := true } }

/-- `PH4 src, dst, proto, len`. -/
def ph4 (src dst : Word) (proto : Byte) (len : Word) (s : State) : State :=
  { s with opr := { s.opr with phKind := 1, phProto := proto, phLen := len, phSrc3 := src, phDst3 := dst } }

/-- `WR PH_CTL, 3`. -/
def phReserved (s : State) : State := { s with opr := { s.opr with phKind := 3 } }

/-- One step on a state whose host writes the command word `w`, and what it leaves. -/
def after {α : Type} (s : State) (w : Nat) (f : State → α) : Option α :=
  match step (s.withFetchWord 32 w) with
  | .next t => some (f t)
  | .fault _ => none
  | .refused _ => none

/-- The `STATUS` word. -/
def statusOf (t : State) : Word := t.status.word

/-- Words of slot `i`. -/
def slotWords (i : Nat) (ws : List Nat) (t : State) : List Word :=
  ws.map (fun w => match t.layers[i]? with | some r => r.word w | none => 0)

/-- The 8-byte buffer of 40_cursor, with a cursor open on it at a position and a count. -/
def cursorAt (pos opn : Word) : State :=
  let s := framed [0x12, 0x34, 0x56, 0x78, 0x9A, 0xBC, 0xDE, 0xF0]
  { s with cur := { base := 0, len := 8, pos := pos }, opr := { s.opr with opn := opn } }

/-! ### Frames of 95_test_vectors -/

/-- The two addresses of every frame. -/
def macs : List Nat := [0xFF, 0xEE, 0xDD, 0xCC, 0xBB, 0xAA, 0x11, 0x22, 0x33, 0x44, 0x55, 0x66]

/-- The IPv4 header of F1. -/
def f1Ip4 : List Nat :=
  [0x45, 0x00, 0x00, 0x21, 0x1C, 0x46, 0x40, 0x00, 0x40, 0x11, 0x9C, 0x6D, 0xC0, 0xA8, 0x00, 0x01, 0xC0, 0xA8,
   0x00, 0xC7]

/-- The UDP datagram of F1. -/
def f1Udp : List Nat := [0x12, 0x34, 0x00, 0x35, 0x00, 0x0D, 0x27, 0x80, 0x68, 0x65, 0x6C, 0x6C, 0x6F]

/-- F1: Ethernet(IPv4(UDP)). -/
def f1 : List Nat := macs ++ [0x08, 0x00] ++ f1Ip4 ++ f1Udp

/-- The TCP segment of F2. -/
def f2Tcp : List Nat :=
  [0xC0, 0x00, 0x00, 0x50, 0x01, 0x02, 0x03, 0x04, 0x0A, 0x0B, 0x0C, 0x0D, 0x60, 0x18, 0x72, 0x10, 0x2C, 0xDD,
   0x00, 0x00, 0x01, 0x01, 0x08, 0x0A, 0x47, 0x45, 0x54]

/-- The IPv6 header of V-IP6-7. -/
def ip6Header : List Nat := [0x6F, 0xF1, 0x23, 0x45, 0xFF, 0xFF, 0x3B, 0x00] ++ List.replicate 32 0

/-- Three tags and no IP header: V-DEEP-11. -/
def threeTags : List Nat :=
  macs ++ [0x81, 0x00, 0x00, 0x01, 0x81, 0x00, 0x00, 0x01, 0x81, 0x00, 0x00, 0x01, 0x08, 0x00]

/-- A deep parse open on the window. -/
def opened (kind : Kind) (s : State) : State :=
  { s with dp := { state := .parsing, next := kind, off := s.opr.winOff, len := s.opr.winLen, opqOff := 0,
                   opqLen := 0 } }

/-- A small layer record: the tag of V-VLAN-4 at address 0, with nothing after it. -/
def tagRecord : LayerRec :=
  { ckValid := false, ckChecked := false, lenMismatch := false, tagged := false, hdrOff := 0, hdrLen := 4,
    payOff := 4, payLen := 0, ind := .etype 0x8100, optOff := 4, optLen := 0,
    body := .vlan { tci := 0x1FFF, etherType := 0x8100 } }

/-! ### Well-formedness and decoding -/

theorem test_wellFormed_refuses_reserved_selector : Instr.wellFormed (.deepStart .none) = false := by decide

/-- 30_encoding R81, bit by bit for one word of each family: `RSV`, `SEL`, `OPCODE`. -/
theorem test_decode_bits :
    decode 0b00000000000000000000_0000_01111111#32 = .cmd .clear ∧
    decode 0b00000000000000000000_0000_00000011#32 = .cmd .curRd16 ∧
    decode 0b00000000000000000000_0010_00010001#32 = .cmd (.csumXport .icmp) ∧
    decode 0b00000000000000000000_0000_00100010#32 = .cmd .parseIp4 ∧
    decode 0b00000000000000000000_0000_00110001#32 = .cmd .dispIpproto ∧
    decode 0b00000000000000000000_0111_00111000#32 = .cmd (.deepStart .icmp) := by decide

/-- 30_encoding R81 and the encodings of 40_cursor. -/
theorem test_decode_cursor :
    decode 0x00000001 = .cmd .curOpen ∧ decode 0x00000002 = .cmd .curRd8 ∧ decode 0x00000003 = .cmd .curRd16 ∧
    decode 0x00000004 = .cmd .curRd32 ∧ decode 0x00000005 = .cmd .curRdb ∧ decode 0x00000006 = .cmd .curPeek ∧
    decode 0x00000007 = .cmd .curRem ∧ decode 0x00000008 = .cmd .curSkip := by decide

/-- The encodings of 41_checksum and 45_system. -/
theorem test_decode_csum_system :
    decode 0x00000010 = .cmd .csumIp4 ∧ decode 0x00000011 = .cmd (.csumXport .tcp) ∧
    decode 0x00000111 = .cmd (.csumXport .udp) ∧ decode 0x00000211 = .cmd (.csumXport .icmp) ∧
    decode 0x00000000 = .cmd .nop ∧ decode 0x0000007F = .cmd .clear := by decide

/-- The encodings of 42_parsers_link_net and 43_parsers_transport. -/
theorem test_decode_parse :
    decode 0x00000020 = .cmd .parseEth ∧ decode 0x00000021 = .cmd .parseVlan ∧ decode 0x00000022 = .cmd .parseIp4 ∧
    decode 0x00000023 = .cmd .parseIp6 ∧ decode 0x00000024 = .cmd .parseTcp ∧ decode 0x00000025 = .cmd .parseUdp ∧
    decode 0x00000026 = .cmd .parseIcmp := by decide

/-- The encodings of 44_dispatch_deep. -/
theorem test_decode_dispatch :
    decode 0x00000030 = .cmd .dispEtype ∧ decode 0x00000031 = .cmd .dispIpproto ∧
    decode 0x00000138 = .cmd (.deepStart .eth) ∧ decode 0x00000438 = .cmd (.deepStart .ip6) ∧
    decode 0x00000638 = .cmd (.deepStart .udp) ∧ decode 0x00000039 = .cmd .deepStep ∧
    decode 0x0000003A = .cmd .deepRun := by decide

/-- V-ILL-1. -/
theorem test_illegal_words :
    [0x00001000, 0x80000000, 0x00000009, 0x00000027, 0x0000003B, 0x000000FF, 0x00000100, 0x00000120, 0x00000311,
     0x00000038, 0x00000838].all (fun w => (decodeTableWord 32 w).isNone) = true := by decide

/-! ### System -/

/-- 45_system R220: `NOP` clears the error report and keeps the cursor. -/
theorem test_nop :
    after { cursorAt 7 0 with status := { err := true, code := .unexpectedEof, layer := 0 } } 0x00
      (fun t => (statusOf t, t.cur.pos)) = some (0, 7) := by decide

/-- V-SYS-2. -/
theorem test_clear :
    after { opened .udp (cursorAt 5 2) with layers := [tagRecord] } 0x7F
      (fun t => (t.nlayers, t.dp.ctlWord, t.cur.len, t.opr.bufLen, t.byteAt 1)) = some (0, 0, 0, 8, 0x34) := by decide

/-! ### Cursor -/

/-- V-CUR-1. -/
theorem test_curOpen :
    after (win 2 4 (cursorAt 3 0)) 0x01 (fun t => (t.cur.base, t.cur.len, t.cur.pos)) = some (2, 4, 0) := by decide

/-- V-CUR-14: the sum of the window check does not wrap. -/
theorem test_curOpen_no_wrap :
    after (win 0xFFFFFFFF 1 (cursorAt 3 0)) 0x01 (fun t => (statusOf t, t.cur.pos)) = some (0xA1, 3) := by decide

/-- V-CUR-2. -/
theorem test_curRd8 : after (cursorAt 0 0) 0x02 (fun t => (t.res.rval, t.cur.pos)) = some (0x12, 1) := by decide

/-- V-CUR-3. -/
theorem test_curRd16 : after (cursorAt 1 0) 0x03 (fun t => (t.res.rval, t.cur.pos)) = some (0x3456, 3) := by decide

/-- 40_cursor R103. -/
theorem test_curRd32 :
    after (cursorAt 3 0) 0x04 (fun t => (t.res.rval, t.cur.pos)) = some (0x789ABCDE, 7) := by decide

/-- V-CUR-6: a failed read consumes nothing. -/
theorem test_curRd32_short :
    after (cursorAt 5 0) 0x04 (fun t => (statusOf t, t.cur.pos)) = some (0x11, 5) := by decide

/-- V-CUR-5. -/
theorem test_curRdb :
    after (cursorAt 3 2) 0x05 (fun t => (t.res.roff, t.res.rlen, t.cur.pos)) = some (3, 2, 5) := by decide

/-- V-CUR-4. -/
theorem test_curPeek :
    after (cursorAt 3 2) 0x06 (fun t => (t.res.roff, t.res.rlen, t.cur.pos)) = some (3, 2, 3) := by decide

/-- V-CUR-3b. -/
theorem test_curRem : after (cursorAt 3 0) 0x07 (fun t => (t.res.rval, t.cur.pos)) = some (5, 3) := by decide

/-- V-CUR-7. -/
theorem test_curSkip : after (cursorAt 5 3) 0x08 (fun t => (statusOf t, t.cur.pos)) = some (0, 8) := by decide

/-- V-CUR-8. -/
theorem test_curSkip_past_end : after (cursorAt 8 1) 0x08 (fun t => (statusOf t, t.cur.pos)) = some (0x11, 8) := by
  decide

/-! ### Checksum -/

/-- V-CSUM-1. -/
theorem test_csumIp4 :
    after (framed [0x45, 0x00, 0x00, 0x73, 0x00, 0x00, 0x40, 0x00, 0x40, 0x11, 0xB8, 0x61, 0xC0, 0xA8, 0x00, 0x01,
      0xC0, 0xA8, 0x00, 0xC7]) 0x10 (fun t => (t.res.rval, t.res.csumWord)) = some (1, 0xB861B861) := by
  decide +kernel

/-- V-CSUM-6: a stored `FFFF` is not taken as equal to a computed 0. -/
theorem test_csumIp4_no_special_case :
    after (framed ([0xFF, 0xFF] ++ List.replicate 8 0 ++ [0xFF, 0xFF] ++ List.replicate 8 0)) 0x10
      (fun t => (t.res.rval, t.res.csumWord)) = some (0, 0xFFFF0000) := by decide +kernel

/-- V-CSUM-7. -/
theorem test_csumXport_udp :
    after (ph4 0xC0A80001 0xC0A800C7 17 13 (framed f1Udp)) 0x111 (fun t => (t.res.rval, t.res.csumWord)) =
      some (1, 0x27802780) := by decide +kernel

/-- V-CSUM-9: `PH_LEN` is a summand only. -/
theorem test_csumXport_tcp :
    after (ph4 0xC0A80001 0xC0A800C7 6 26 (framed f2Tcp)) 0x11 (fun t => (t.res.rval, t.res.csumWord)) =
      some (0, 0x2CDD2CDE) := by decide +kernel

/-! ### Parsers -/

/-- V-ETH-4. -/
theorem test_parseEth :
    after (framed (macs ++ [0x81, 0x00, 0xA0, 0x64, 0x08, 0x00])) 0x20
      (slotWords 0 [0, 2, 3, 4, 5, 8, 9, 10, 11, 12, 13, 14, 15, 16]) =
      some [0x801, 18, 18, 0, 0x00010800, 0xFFEE, 0xDDCCBBAA, 0x1122, 0x33445566, 0x0800, 0xA064, 5, 0, 0x064] := by
  decide +kernel

/-- V-ETH-6: the minimum applies with `FCS_EN`, and comes first. -/
theorem test_parseEth_minimum :
    after (let s := framed f1; { s with opr := { s.opr with fcsEn := true }, layers := [tagRecord] }) 0x20
      (fun t => (statusOf t, t.nlayers)) = some (0x51, 0) := by decide

/-- V-VLAN-4. -/
theorem test_parseVlan :
    after (framed [0x1F, 0xFF, 0x81, 0x00]) 0x21 (slotWords 0 [0, 4, 5, 8, 9, 10, 11, 12]) =
      some [0x002, 0, 0x00018100, 0x1FFF, 0, 1, 0xFFF, 0x8100] := by decide +kernel

/-- V-IP4-9: options, a valid checksum over 24 bytes, flags and fragment offset. -/
theorem test_parseIp4 :
    after (framed [0x46, 0x00, 0x00, 0x20, 0xAB, 0xCD, 0x20, 0xB9, 0x01, 0x11, 0xD6, 0x43, 0x0A, 0x00, 0x00, 0x01,
      0x0A, 0x00, 0x00, 0x02, 0x01, 0x01, 0x01, 0x00, 0x08, 0x00, 0xF7, 0xFD, 0x00, 0x01, 0x00, 0x01]) 0x22
      (slotWords 0 [0, 2, 4, 5, 6, 7, 12, 13, 14, 15, 16, 17, 18, 19]) =
      some [0x1303, 24, 8, 0x00020011, 20, 4, 0x20, 0xABCD, 1, 0x0B9, 1, 0x11, 0xD643, 0x0A000001] := by
  decide +kernel

/-- V-IP4-7: strict, the stored checksum 0 is wrong. -/
theorem test_parseIp4_strict :
    after (strictly (framed ([0x45] ++ List.replicate 19 0))) 0x22 (fun t => (statusOf t, t.nlayers)) =
      some (0x61, 0) := by decide +kernel

/-- V-IP6-7. -/
theorem test_parseIp6 :
    after (framed ip6Header) 0x23 (slotWords 0 [0, 2, 4, 8, 9, 10, 11, 12, 13]) =
      some [0x004, 40, 0, 6, 0xFF, 0x12345, 0xFFFF, 0x3B, 0] := by decide +kernel

/-- V-IP6-4: the version test comes before the length. -/
theorem test_parseIp6_version : after (framed [0x45]) 0x23 statusOf = some 0x31 := by decide +kernel

/-- V-TCP-1. -/
theorem test_parseTcp :
    after (ph4 0xC0A80001 0xC0A800C7 6 27 (framed f2Tcp)) 0x24
      (slotWords 0 [0, 2, 4, 5, 6, 7, 8, 9, 10, 11, 12, 13, 14, 15, 16]) =
      some [0x1305, 24, 3, 0, 20, 4, 0xC000, 0x50, 0x01020304, 0x0A0B0C0D, 6, 0x018, 0x7210, 0x2CDD, 0] := by
  decide +kernel

/-- V-TCP-3, V-TCP-6: a declared length beyond the window is `TruncatedPacket`, one below the minimum `HeaderTooShort`. -/
theorem test_parseTcp_length :
    after (framed (f2Tcp.take 20)) 0x24 statusOf = some 0x21 ∧
      after (framed (f2Tcp.set 12 0x40)) 0x24 statusOf = some 0x41 := by decide +kernel

/-- V-UDP-3. -/
theorem test_parseUdp :
    after (ph4 0xC0A80001 0xC0A800C7 17 13 (framed (f1Udp ++ [0x00]))) 0x25
      (slotWords 0 [0, 2, 4, 8, 9, 10, 11]) = some [0x706, 8, 6, 0x1234, 0x35, 0xD, 0x2780] := by decide +kernel

/-- V-UDP-4: strict, the length test before the checksum test. -/
theorem test_parseUdp_strict :
    after (strictly (framed (f1Udp ++ [0x00]))) 0x25 statusOf = some 0x51 := by decide +kernel

/-- V-ICMP-1. -/
theorem test_parseIcmp :
    after (framed [0x08, 0x00, 0xF7, 0xFD, 0x00, 0x01, 0x00, 0x01]) 0x26 (slotWords 0 [0, 2, 4, 8, 9, 10]) =
      some [0x307, 4, 4, 8, 0, 0xF7FD] := by decide +kernel

/-- V-ICMP-5: the reserved pseudo-header kind changes nothing but `STATUS`. -/
theorem test_parseIcmp_reserved :
    after { phReserved State.reset with layers := [tagRecord] } 0x26 (fun t => (statusOf t, t.layers)) =
      some (0x91, [tagRecord]) := by decide

/-! ### Dispatcher and deep parse -/

/-- V-DISP-2. -/
theorem test_dispEtype :
    after { State.reset with opr := { Operands.reset with pid := 0x86DD } } 0x30
      (fun t => (t.res.nextWord, statusOf t)) = some (4, 0) := by decide

/-- V-DISP-4. -/
theorem test_dispEtype_unmapped :
    after { State.reset with opr := { Operands.reset with pid := 0x0806 } } 0x30
      (fun t => (t.res.nextWord, statusOf t)) = some (0, 0x70) := by decide

/-- V-DISP-10. -/
theorem test_dispIpproto :
    after { State.reset with opr := { Operands.reset with pid := 0x0106 } } 0x31
      (fun t => (t.res.nextWord, statusOf t)) = some (5, 0) := by decide

/-- Program P1, `DEEP.START ETH`. -/
theorem test_deepStart :
    after (framed f1) 0x138 (fun t => (t.dp.ctlWord, t.dp.off, t.dp.len, t.nlayers)) = some (0x11, 0, 47, 0) := by
  decide

/-- Program P1, step 1. -/
theorem test_deepStep :
    after (opened .eth (framed f1)) 0x39 (fun t => (statusOf t, t.dp.ctlWord, t.dp.off, t.dp.len)) =
      some (0x100, 0x31, 14, 33) := by decide +kernel

/-- The last step of V-DEEP-10. -/
theorem test_deepStep_maxDepth :
    after { opened .ip4 (framed []) with layers := List.replicate 16 tagRecord } 0x39
      (fun t => (statusOf t, t.dp.ctlWord, t.nlayers)) = some (0x1081, 0x33, 16) := by decide

/-- V-RST-2. -/
theorem test_deepRun_idle : after State.reset 0x3A statusOf = some 0xB1 := by decide

/-- Program P1, `DEEP.RUN`. -/
theorem test_deepRun :
    after (opened .eth (framed f1)) 0x3A
      (fun t => [statusOf t, t.dp.ctlWord, t.dp.opqOff, t.dp.opqLen] ++ slotWords 2 [0, 1, 3, 4, 11] t) =
      some [0x300, 0x02, 42, 5, 0x306, 34, 42, 5, 0x2780] := by decide +kernel

/-! ### The host -/

/-- 20_memory R64 and V-RST-1: a word store in little-endian lanes, and a read of `ID`. -/
theorem test_host_lanes :
    (hostWrite build State.reset .byte4 0x10004 0x44332211).byteAt 6 = 0x33 ∧
      readValue build State.reset .byte4 0x080 = 0x4E534231 := by decide +kernel

/-! ### Witnesses: states and operands that meet the hypotheses of each obligation that has some

`witness_<name>` belongs to `Obligations.<Name>`; where a statement has several clauses, each conjunct stands for one, at
a boundary of its range. -/

/-- A command that ends in a next state with a decidable property. -/
theorem ends {o : Host.Outcome State Fault Refusal} {p : State → Prop} [DecidablePred p]
    (h : (match o with
      | .next t => decide (p t)
      | .fault _ => false
      | .refused _ => false) = true) : ∃ t : State, o = .next t ∧ p t := by
  cases o with
  | next t => exact ⟨t, rfl, of_decide_eq_true h⟩
  | fault f => cases h
  | refused r => cases h

/-- The host about to do one operation. -/
def about (op : HostOp) : State := State.reset.setHostOps [op]

/-- A frame of `n` zero bytes. -/
def zeros (n : Nat) : State := framed (List.replicate n 0)

/-- `CFG.FCS_EN` set. -/
def withFcs (s : State) : State := { s with opr := { s.opr with fcsEn := true } }

/-- A window of one byte in an empty buffer. -/
def outside : State := win 0 1 State.reset

/-- An open deep parse with as many tag layers as the bound allows. -/
def deepest : State := { opened .vlan (zeros 4) with layers := List.replicate 16 tagRecord }

/-- The pseudo-header of `f1`'s datagram. -/
def f1Ph : PseudoHeader := { kind := .v4, src := 0xC0A80001, dst := 0xC0A800C7, proto := 17, len := 13 }

/-- The datagram of `f1` with its pseudo-header, in strict mode, with further bytes after it. -/
def strictUdp (more : List Nat) : State := strictly (ph4 0xC0A80001 0xC0A800C7 17 13 (framed (f1Udp ++ more)))

theorem witness_illegalWords :
    (∀ n ∈ [0x1000, 0x80000000, 0x09, 0x100, 0x311, 0xF11, 0x038, 0x838], illegalBits (BitVec.ofNat 32 n)) ∧
    ∀ n ∈ [0x00, 0x7F, 0x211, 0x138, 0x738], ¬ illegalBits (BitVec.ofNat 32 n) := by
  unfold illegalBits; decide

theorem witness_stepRuns :
    (about (.write .byte4 0 0x7F)).hostOps = [.write .byte4 0 0x7F] ∧ decode 0x7F = .cmd .clear ∧
    (about (.write .byte4 0 0x100)).hostOps = [.write .byte4 0 0x100] ∧
    ((about (.write .byte1 0 1)).hostOps = [.write .byte1 0 1] ∧
      (AccessSize.byte1 ≠ .byte4 ∨ (0 : BitVec 17) ≠ 0)) ∧
    ((about (.write .byte4 4 1)).hostOps = [.write .byte4 4 1] ∧
      (AccessSize.byte4 ≠ .byte4 ∨ (4 : BitVec 17) ≠ 0)) ∧
    (about (.read .byte4 0x1FFFC)).hostOps = [.read .byte4 0x1FFFC] ∧
    ((about (.load 65535 [1])).hostOps = [.load 65535 [1]] ∧
      hostLoad build { about (.load 65535 [1]) with hostOps := [] } 65535 [1] =
        some { State.reset with mem := [(65535, 1)] }) ∧
    State.reset.hostOps = [] := by decide

theorem witness_narrowAccesses :
    ((0xFFFF : BitVec 17).toNat < 0x10000 ∧ (AccessSize.byte1 ≠ .byte4 ∨ (0xFFFF : BitVec 17).toNat % 4 ≠ 0)) ∧
    ((2 : BitVec 17).toNat < 0x10000 ∧ (AccessSize.byte4 ≠ .byte4 ∨ (2 : BitVec 17).toNat % 4 ≠ 0)) ∧
    0x10000 + { build with bufSize := 64 }.bufSize ≤ (0x10040 : BitVec 17).toNat := by decide

theorem witness_registerReads :
    (about (.read .byte4 0x000)).hostOps = [.read .byte4 0x000] ∧
    (about (.read .byte4 0x07C)).hostOps = [.read .byte4 0x07C] := by decide

theorem witness_operandWrites :
    (0x008, 0x00000003) ∈ operandMasks ∧ (0x044, 0xFFFFFFFF) ∈ operandMasks ∧
    (about (.write .byte4 0x044 7)).hostOps = [.write .byte4 0x044 7] := by decide

theorem witness_readOnlySpace :
    (∀ n ∈ [0x004, 0x048, 0xFFF, 0x1000, 0xFFFF], (BitVec.ofNat 17 n).toNat < 0x10000 ∧ BitVec.ofNat 17 n ≠ 0 ∧
      BitVec.ofNat 17 n ∉ operandMasks.map Prod.fst) ∧
    ∀ addr, (about (.write .byte4 addr 1)).hostOps = [.write .byte4 addr 1] := ⟨by decide, fun _ => rfl⟩

theorem witness_constants :
    build.Admissible ∧ 0x088 ≤ (0x088 : BitVec 17).toNat ∧ (0xFFC : BitVec 17).toNat ≤ 0xFFC ∧
    0x080 ≤ (0x080 : BitVec 17).toNat ∧ 0x1000 + 0x80 * build.maxDepth ≤ (0x1800 : BitVec 17).toNat ∧
    (0xFFFF : BitVec 17).toNat ≤ 0xFFFF := ⟨build_admissible, by decide⟩

theorem witness_bufferAccesses :
    build.Admissible ∧ 0 % AccessSize.byte4.bytes = 0 ∧ 65532 % AccessSize.byte4.bytes = 0 ∧
    65532 + AccessSize.byte4.bytes ≤ build.bufSize ∧ 65535 % AccessSize.byte1.bytes = 0 ∧
    65535 + AccessSize.byte1.bytes ≤ build.bufSize := ⟨build_admissible, by decide⟩

theorem witness_hostLoad :
    65535 + [(7 : Byte)].length ≤ build.bufSize ∧ 0 + ([] : List Byte).length ≤ build.bufSize ∧
    ∃ t : State, runCommand 0x7F (framed f1) = .next t ∧ t.mem ≠ [] :=
  ⟨by decide, by decide, ends (by decide)⟩

theorem witness_validSlots :
    deepest.layers[15]? = some tagRecord ∧ 15 < build.maxDepth ∧ 31 < 32 ∧ deepest.layers[0]? = some tagRecord := by
  decide

theorem witness_platformReset : (about .reset).hostOps = [.reset] := by decide

theorem witness_invariant :
    let s := { opened .vlan (zeros 4) with
      layers := [tagRecord], dp := { Sequencer.reset with state := .parsing, next := .vlan, off := 4 } }
    s.Inv build ∧ ∃ t : State, step s = .next t ∧ t.layers = [tagRecord] := by
  intro s
  refine ⟨⟨by decide, by decide, by decide, by decide, ?_, ?_, by decide, by decide, ?_, by decide, by decide⟩,
    ends (by decide)⟩
  · intro r hr
    obtain rfl : r = tagRecord := by simpa [s] using hr
    exact ⟨by decide, by decide, by decide, by decide, show _ ∧ _ from by decide⟩
  · simp [s]
  · have key : ∀ r : LayerRec, s.layers.getLast? = some r → r = tagRecord := by
      intro r hr; simpa [s, eq_comm] using hr
    refine ⟨by decide, by decide, by decide, fun r hr => ?_, fun r hr => ?_⟩ <;> rw [key r hr] <;> decide

theorem witness_everyCommand :
    ((opened .eth State.reset).dp.state = .parsing → (opened .eth State.reset).dp.next ≠ .none) ∧
    (State.reset.dp.state = .parsing → State.reset.dp.next ≠ .none) := by decide

theorem witness_codes :
    (∃ t : State, exec .parseEth (framed f1) = .next t ∧ t.status.code = .ok) ∧
    ∃ t : State, exec (.csumXport .tcp) (phReserved outside) = .next t ∧ t.status.code = .illegalCommand :=
  ⟨ends (by decide), ends (by decide)⟩

theorem witness_operandsKept :
    ∃ t : State, exec .curOpen (framed f1) = .next t ∧ t.cur.len = 47 := ends (by decide)

theorem witness_registersKept :
    (∃ t : State, exec .nop deepest = .next t ∧ t.layers = deepest.layers) ∧ Instr.writesCursor .nop = false ∧
    Instr.writesRval .nop = false ∧ Instr.writesSlice .nop = false ∧ Instr.writesCsum .nop = false ∧
    Instr.writesNext .nop = false ∧ Instr.writesLayers .nop = false ∧ Instr.writesSlices .nop = false :=
  ⟨ends (by decide), by decide⟩

theorem witness_failures :
    (∀ i : Instr, decode 0x00000100 ≠ .cmd i) ∧
    (∃ t : State, exec .curOpen outside = .next t ∧ t.status.err = true ∧ t.status.code = .badWindow) ∧
    (∃ t : State, exec .curRd8 (cursorAt 8 0) = .next t ∧ t.status.err = true ∧ t.status.code = .unexpectedEof) ∧
    (∃ t : State, exec .parseVlan (zeros 3) = .next t ∧ t.status.err = true ∧ t.status.code = .unexpectedEof) ∧
    (∃ t : State, exec .deepStep (opened .eth (zeros 13)) = .next t ∧ t.status.err = true ∧
      t.status.code = .unexpectedEof) ∧
    ∃ t : State, exec .deepRun (opened .eth (framed threeTags)) = .next t ∧ t.status.err = true ∧
      t.status.code = .unexpectedEof := by
  refine ⟨fun i h => ?_, ends (by decide), ends (by decide), ends (by decide), ends (by decide),
    ends (by decide)⟩
  have e : (match decode 0x00000100 with
    | .cmd _ => true
    | .illegal _ => false) = false := by decide
  rw [h] at e
  cases e

theorem witness_slices :
    (Instr.wellFormed .curOpen = true ∧ outside.slice .curOpen = some (0, 1) ∧
      ¬ (0 + 1 ≤ outside.opr.bufLen.toNat ∧ outside.opr.bufLen.toNat ≤ build.bufSize)) ∧
    (Instr.wellFormed .parseUdp = true ∧ (strictUdp []).slice .parseUdp = some (0, 13) ∧
      (strictUdp []).opr.phKind ≠ 3 ∧
      (0 + 13 ≤ (strictUdp []).opr.bufLen.toNat ∧ (strictUdp []).opr.bufLen.toNat ≤ build.bufSize) ∧
      ∃ t : State, exec .parseUdp (strictUdp []) = .next t ∧ t.nlayers = 1) ∧
    (let s := { opened .eth State.reset with opr := { Operands.reset with bufLen := 65537 } };
      s.slice .deepStep = some (0, 0) ∧ s.dp.state = .parsing ∧
      ¬ (0 + 0 ≤ s.opr.bufLen.toNat ∧ s.opr.bufLen.toNat ≤ build.bufSize)) :=
  ⟨by decide, ⟨by decide, by decide, by decide, by decide, ends (by decide)⟩, by decide⟩

theorem witness_belowBufLen :
    (let s := { State.reset with mem := [(0, 5)], opr := { Operands.reset with bufLen := 1 } };
      ∀ a, a < s.opr.bufLen.toNat → ({ s with mem := [(0, 5), (1, 7)] } : State).byteAt a = s.byteAt a) ∧
    (outside.slice .curOpen = some (0, 1) ∧ outside.opr.bufLen.toNat < 0 + 1) := by
  refine ⟨?_, by decide⟩
  show ∀ a, a < 1 → _
  decide

theorem witness_reservedPseudoHeader :
    Instr.readsPseudoHeader (.csumXport .icmp) = true ∧ (phReserved outside).opr.phKind = 3 := by decide

theorem witness_lenient :
    (framed (f1Udp ++ [0])).opr.strict = false ∧
    (∃ t : State, exec .parseUdp (framed (f1Udp ++ [0])) = .next t ∧ t.status.code = .ok) ∧
    (∃ t : State, exec .deepStep (opened .udp (framed (f1Udp ++ [0]))) = .next t ∧ t.status.code = .ok) ∧
    (∃ t : State, exec .deepRun (opened .eth (framed (f1 ++ [0]))) = .next t ∧ t.status.code = .ok ∧
      t.layers.length = 3) ∧
    (∃ t : State, exec .deepStep (withFcs (opened .eth (zeros 63))) = .next t ∧ t.status.code = .malformedPacket) ∧
    (∃ t : State, exec .deepRun (withFcs (opened .eth (zeros 63))) = .next t ∧ t.status.code = .malformedPacket) ∧
    ∃ t : State, exec .deepRun (withFcs (opened .eth (zeros 64))) = .next t ∧ t.status.code = .unsupportedProtocol :=
  ⟨by decide, ends (by decide), ends (by decide), ends (by decide), ends (by decide), ends (by decide),
    ends (by decide)⟩

theorem witness_curOpen :
    ¬ (outside.opr.winOff.toNat + outside.opr.winLen.toNat ≤ outside.opr.bufLen.toNat ∧
      outside.opr.bufLen.toNat ≤ build.bufSize) ∧
    ((win 47 0 (framed f1)).opr.winOff.toNat + (win 47 0 (framed f1)).opr.winLen.toNat ≤
      (framed f1).opr.bufLen.toNat ∧ (framed f1).opr.bufLen.toNat ≤ build.bufSize) := by decide

/-- A cursor over a buffer that the host has made shorter since. -/
def cursorOutside : State := { cursorAt 0 1 with opr := { Operands.reset with bufLen := 7 } }

theorem witness_cursorCommands :
    (cursorOutside.cur.pos.toNat ≤ cursorOutside.cur.len.toNat ∧ ¬ cursorOutside.cursorInside) ∧
    ∀ n ∈ [4, 5, 6, 7, 8], (cursorAt (BitVec.ofNat 32 n) 1).cur.pos.toNat = n ∧
      (cursorAt (BitVec.ofNat 32 n) 1).cur.len.toNat = 8 ∧ (cursorAt (BitVec.ofNat 32 n) 1).cursorInside := by
  unfold State.cursorInside; decide

theorem witness_cursorLaws :
    (cursorAt 0 8).cur.pos.toNat ≤ (cursorAt 0 8).cur.len.toNat ∧
    (∃ t : State, exec .curSkip (cursorAt 0 8) = .next t ∧ t.cur.pos = 8) ∧
    (∀ a, 0 ≤ a → a < 0 + 8 → a < 8 →
      ({ cursorAt 0 8 with mem := (cursorAt 0 8).mem ++ [(8, 1)] } : State).byteAt a = (cursorAt 0 8).byteAt a) ∧
    (∃ t : State, exec .curRd16 (cursorAt 6 0) = .next t ∧ t.status.err = false) ∧
    (∃ t : State, exec .curRd32 (cursorAt 4 0) = .next t ∧ t.status.err = false) ∧
    ∃ t : State, exec .curRdb (cursorAt 0 8) = .next t ∧ t.status.err = false :=
  ⟨by decide, ends (by decide), fun a _ _ h => by revert a; decide, ends (by decide), ends (by decide),
    ends (by decide)⟩

theorem witness_onesSum : List.Perm [(1 : Half), 2] [2, 1] ∧ (0x10000 : Nat) ≠ 0 := by decide

theorem witness_pseudoHeader :
    (phReserved State.reset).opr.phKind = 3 ∧ (framed f1).opr.phKind = 0 ∧ (strictUdp []).opr.phKind = 1 ∧
    { Operands.reset with phKind := 2 }.phKind = 2 ∧ f1Ph.kind = .v4 ∧ PseudoHeader.absent.kind = .none ∧
    { f1Ph with kind := .v6 }.kind = .v6 := by decide

theorem witness_checksumLaws :
    (0 % 2 = 0 ∧ 0 + 2 ≤ (hex [0xFF, 0xFE]).length) ∧
    (storedField (hex [0xFF, 0xFE, 0, 1]) 0 = inetCsum ([] ++ checksumWords (zeroField (hex [0xFF, 0xFE, 0, 1]) 0)) ∧
      ∃ w ∈ [] ++ checksumWords (zeroField (hex [0xFF, 0xFE, 0, 1]) 0), w ≠ 0) ∧
    onesSum16 ([] ++ checksumWords (hex [0xFF, 0xFF, 0xFF, 0xFF])) = 0xFFFF ∧
    ([(0 : Half)][0]? = some 0 ∧ ¬ (0xFFFF : Int) ∣ ((1 : Half).toNat : Int) - (0 : Half).toNat) ∧
    ∀ a, 0 ≤ a → a < 0 + 2 → (fun _ : Nat => (0 : Byte)) a = (fun x : Nat => if x < 2 then 0 else 1) a := by
  refine ⟨by decide, ⟨by decide, 1, by decide, by decide⟩, by decide, ⟨rfl, by decide⟩, fun a _ h => ?_⟩
  simp [show a < 2 by omega]

theorem witness_csum :
    (∀ s ∈ [zeros 11, zeros 12],
      s.opr.winOff.toNat + s.opr.winLen.toNat ≤ s.opr.bufLen.toNat ∧ s.opr.bufLen.toNat ≤ build.bufSize) ∧
    (zeros 11).opr.winLen.toNat < 12 ∧ 12 ≤ (zeros 12).opr.winLen.toNat ∧
    ¬ (outside.opr.winOff.toNat + outside.opr.winLen.toNat ≤ outside.opr.bufLen.toNat ∧
      outside.opr.bufLen.toNat ≤ build.bufSize) := by decide

theorem witness_csumXport :
    (phReserved State.reset).opr.phKind = 3 ∧ outside.pseudoHeader = some PseudoHeader.absent ∧
    ∀ n ∈ [3, 4, 7, 8, 17, 18], (zeros n).pseudoHeader = some PseudoHeader.absent ∧
      (zeros n).opr.winOff.toNat + (zeros n).opr.winLen.toNat ≤ (zeros n).opr.bufLen.toNat ∧
      (zeros n).opr.bufLen.toNat ≤ build.bufSize ∧ (zeros n).opr.winLen.toNat = n := by decide

/-- A frame whose first tag identifier stands where it belongs, cut to `n` bytes. -/
def tagged (n : Nat) : State := framed ((macs ++ [0x81, 0x00, 0, 0, 0, 0]).take n)

/-- `WR CFG.FCS_EN, 1`. -/
theorem witness_parseEth :
    (∀ s ∈ [withFcs (zeros 64), withFcs (zeros 63), zeros 14, zeros 13, tagged 14, tagged 17, tagged 18],
      s.windowInside) ∧
    ((withFcs (zeros 64)).opr.fcsEn = true ∧ 64 ≤ (withFcs (zeros 64)).opr.winLen.toNat ∧
      (withFcs (zeros 64)).be16 12 ≠ 0x8100) ∧
    ((withFcs (zeros 63)).opr.fcsEn = true ∧ (withFcs (zeros 63)).opr.winLen.toNat < 64) ∧
    ((zeros 14).opr.fcsEn = false ∧ 14 ≤ (zeros 14).opr.winLen.toNat ∧ (zeros 14).be16 12 ≠ 0x8100) ∧
    (zeros 13).opr.winLen.toNat < 14 ∧
    ((tagged 18).be16 12 = 0x8100 ∧ 18 ≤ (tagged 18).opr.winLen.toNat) ∧
    ((tagged 14).be16 12 = 0x8100 ∧ (tagged 14).opr.winLen.toNat = 14) ∧
    ((tagged 17).be16 12 = 0x8100 ∧ (tagged 17).opr.winLen.toNat < 18 ∧ (tagged 17).opr.fcsEn = false) := by
  unfold State.windowInside; decide

theorem witness_parseVlan :
    ((zeros 4).windowInside ∧ 4 ≤ (zeros 4).opr.winLen.toNat) ∧
    ((zeros 3).windowInside ∧ (zeros 3).opr.winLen.toNat < 4) := by
  unfold State.windowInside; decide

/-- A buffer that begins with an IPv4 header's first byte. -/
def ip4Start (b n : Nat) : State := framed (b :: List.replicate n 0)

theorem witness_parseIp4 :
    (∀ s ∈ [ip4Start 0x45 19, strictly (framed f1Ip4), zeros 0, ip4Start 0x65 0, ip4Start 0x44 0, ip4Start 0x45 18,
      strictly (ip4Start 0x45 19)], s.windowInside) ∧
    ((ip4Start 0x45 19).version 0 = 4 ∧ (ip4Start 0x45 19).ihl 0 = 5 ∧ (ip4Start 0x45 19).opr.winLen.toNat = 20 ∧
      (ip4Start 0x45 19).opr.strict = false) ∧
    ((strictly (framed f1Ip4)).version 0 = 4 ∧ (strictly (framed f1Ip4)).ihl 0 = 5 ∧
      (strictly (framed f1Ip4)).opr.strict = true ∧
      (strictly (framed f1Ip4)).checksumHolds PseudoHeader.absent 0 20 10 = true) ∧
    (zeros 0).opr.winLen.toNat = 0 ∧
    ((ip4Start 0x65 0).opr.winLen.toNat = 1 ∧ (ip4Start 0x65 0).version 0 ≠ 4) ∧
    ((ip4Start 0x44 0).version 0 = 4 ∧ (ip4Start 0x44 0).ihl 0 < 5) ∧
    ((ip4Start 0x45 18).ihl 0 = 5 ∧ (ip4Start 0x45 18).opr.winLen.toNat < 20) ∧
    (strictly (ip4Start 0x45 19)).checksumHolds PseudoHeader.absent 0 20 10 = false := by
  unfold State.windowInside; decide

theorem witness_parseIp6 :
    (∀ s ∈ [framed ip6Header, zeros 0, ip4Start 0x45 0, framed (ip6Header.take 39)], s.windowInside) ∧
    ((framed ip6Header).version 0 = 6 ∧ (framed ip6Header).opr.winLen.toNat = 40) ∧
    (zeros 0).opr.winLen.toNat = 0 ∧ ((ip4Start 0x45 0).opr.winLen.toNat = 1 ∧ (ip4Start 0x45 0).version 0 ≠ 6) ∧
    ((framed (ip6Header.take 39)).version 0 = 6 ∧ (framed (ip6Header.take 39)).opr.winLen.toNat = 39) := by
  unfold State.windowInside; decide

/-- A TCP header of 20 bytes with a data offset, and `n` bytes of it. -/
def tcpStart (doff n : Nat) : State := framed ((List.replicate 12 0 ++ [16 * doff] ++ List.replicate 7 0).take n)

/-- The pseudo-header of V-TCP-1. -/
def f2Ph : PseudoHeader := { kind := .v4, src := 0xC0A80001, dst := 0xC0A800C7, proto := 6, len := 27 }

theorem witness_parseTcp :
    (∀ s ∈ [tcpStart 5 20, tcpStart 5 19, tcpStart 4 20, tcpStart 6 20, strictly (tcpStart 5 20)],
      s.windowInside ∧ s.pseudoHeader = some PseudoHeader.absent) ∧
    ((tcpStart 5 20).doff 0 = 5 ∧ (tcpStart 5 20).opr.winLen.toNat = 20 ∧ (tcpStart 5 20).opr.strict = false) ∧
    (let s := strictly (ph4 0xC0A80001 0xC0A800C7 6 27 (framed f2Tcp));
      s.windowInside ∧ s.pseudoHeader = some f2Ph ∧ s.doff 0 = 6 ∧ s.opr.strict = true ∧
      s.checksumHolds f2Ph 0 27 16 = true) ∧
    (tcpStart 5 19).opr.winLen.toNat < 20 ∧ (tcpStart 4 20).doff 0 < 5 ∧ (tcpStart 6 20).doff 0 = 6 ∧
    ((strictly (tcpStart 5 20)).opr.strict = true ∧
      (strictly (tcpStart 5 20)).checksumHolds PseudoHeader.absent 0 20 16 = false) := by
  unfold State.windowInside; decide

theorem witness_parseUdp :
    (∀ s ∈ [zeros 8, zeros 7], s.windowInside ∧ s.pseudoHeader = some PseudoHeader.absent ∧ s.opr.strict = false) ∧
    ((zeros 8).opr.winLen.toNat = 8 ∧ (zeros 7).opr.winLen.toNat = 7) ∧
    ((strictUdp []).windowInside ∧ (strictUdp []).pseudoHeader = some f1Ph ∧ (strictUdp []).opr.strict = true ∧
      ((strictUdp []).be16 4).toNat = (strictUdp []).opr.winLen.toNat ∧
      (strictUdp []).checksumHolds f1Ph 0 13 6 = true) ∧
    ((strictUdp [0]).windowInside ∧ ((strictUdp [0]).be16 4).toNat ≠ (strictUdp [0]).opr.winLen.toNat) ∧
    ((strictly (framed f1Udp)).windowInside ∧
      ((strictly (framed f1Udp)).be16 4).toNat = (strictly (framed f1Udp)).opr.winLen.toNat ∧
      (strictly (framed f1Udp)).checksumHolds PseudoHeader.absent 0 13 6 = false) := by
  unfold State.windowInside; decide

theorem witness_parseIcmp :
    (∀ s ∈ [zeros 4, zeros 3, strictly (zeros 4), strictly (framed [0x08, 0x00, 0xF7, 0xFF])],
      s.windowInside ∧ s.pseudoHeader = some PseudoHeader.absent) ∧
    ((zeros 4).opr.strict = false ∧ (zeros 4).opr.winLen.toNat = 4) ∧ (zeros 3).opr.winLen.toNat = 3 ∧
    (strictly (framed [0x08, 0x00, 0xF7, 0xFF])).checksumHolds PseudoHeader.absent 0 4 2 = true ∧
    (strictly (zeros 4)).checksumHolds PseudoHeader.absent 0 4 2 = false := by
  unfold State.windowInside; decide

theorem witness_deepStart :
    Kind.icmp ≠ .none ∧ ¬ outside.windowInside ∧ (win 47 0 (framed f1)).windowInside := by
  unfold State.windowInside; decide

theorem witness_deepStep :
    State.reset.dp.state ≠ .parsing ∧
    ((opened .eth outside).dp.state = .parsing ∧
      ¬ (0 + 1 ≤ (opened .eth outside).opr.bufLen.toNat ∧ (opened .eth outside).opr.bufLen.toNat ≤ build.bufSize)) ∧
    (deepest.deepReady ∧ build.maxDepth ≤ deepest.layers.length) ∧
    ((opened .eth (zeros 0)).deepReady ∧
      (opened .eth (zeros 0)).firstFailure build .eth 0 0 PseudoHeader.absent = some .unexpectedEof) ∧
    (let s := opened .eth (framed f1);
      s.deepReady ∧ s.layers.length < build.maxDepth ∧ s.firstFailure build .eth 0 47 PseudoHeader.absent = none ∧
      s.layerRecord build .eth 0 47 PseudoHeader.absent = some (s.ethRecord build 0 47) ∧
      dispatch build (s.ethRecord build 0 47).ind ≠ .none) ∧
    (let s := opened .vlan (zeros 4);
      s.deepReady ∧ s.firstFailure build .vlan 0 4 PseudoHeader.absent = none ∧
      s.layerRecord build .vlan 0 4 PseudoHeader.absent = some (s.vlanRecord 0 4) ∧
      dispatch build (s.vlanRecord 0 4).ind = .none ∧ (s.vlanRecord 0 4).ind ≠ .none) ∧
    let s := opened .icmp (zeros 4);
    s.deepReady ∧ s.firstFailure build .icmp 0 4 PseudoHeader.absent = none ∧
      (s.icmpRecord 0 4 PseudoHeader.absent).ind = .none := by
  unfold State.deepReady; decide

theorem witness_deepPseudoHeader :
    (∃ f : Ip4Fields, ((framed f1Ip4).ip4Record 0 20).body = .ip4 f) ∧
    (∃ f : Ip6Fields, ((framed ip6Header).ip6Record 0 40).body = .ip6 f) ∧
    tagRecord.kind ≠ .ip4 ∧ tagRecord.kind ≠ .ip6 ∧ Kind.tcp ≠ .icmp :=
  ⟨⟨_, rfl⟩, ⟨_, rfl⟩, by decide⟩

theorem witness_deepRun :
    State.reset.dp.state ≠ .parsing ∧
    ((opened .eth outside).dp.state = .parsing ∧
      ¬ ((opened .eth outside).dp.off.toNat + (opened .eth outside).dp.len.toNat ≤
          (opened .eth outside).opr.bufLen.toNat ∧ (opened .eth outside).opr.bufLen.toNat ≤ build.bufSize)) ∧
    (opened .eth (framed f1)).deepReady ∧ deepest.deepReady := by
  unfold State.deepReady; decide

theorem witness_deepParseWindow :
    let s := framed f1;
    let u := { framed (f1 ++ [1]) with opr := { s.opr with bufLen := 48 } }
    Kind.eth ≠ .none ∧ s.windowInside ∧ u.windowInside ∧ u.opr.winOff = s.opr.winOff ∧
    u.opr.winLen = s.opr.winLen ∧ u.opr.fcsEn = s.opr.fcsEn ∧ u.opr.strict = s.opr.strict ∧ u ≠ s ∧
    ∀ a, a < 0 + 47 → u.byteAt a = s.byteAt a := by
  unfold State.windowInside; decide

/-- 4014 bytes: the tag identifier in the first half of every word. -/
def manyTags : State :=
  { State.reset with
    mem := (List.range' 0 4014).map (fun a => (a, if a % 4 = 0 then 0x81 else 0)),
    opr := { Operands.reset with bufLen := 4014, winLen := 4014 } }

theorem stored_map_range (f : Nat → Byte) (n : Nat) : ∀ k a, k ≤ a → a < k + n →
    Memory.stored ((List.range' k n).map fun x => (x, f x)) a = some (f a) := by
  induction n with
  | zero => intro k a h h'; omega
  | succ n ih =>
    intro k a h h'
    simp only [List.range'_succ, List.map_cons, Memory.stored]
    split
    · rename_i e; rw [e]
    · exact ih (k + 1) a (by omega) (by omega)

theorem witness_nestedTags :
    build.Admissible ∧ build.etypeTable build.tpid = .vlan ∧ manyTags.windowOk build ∧
    (manyTags.opr.fcsEn = true → build.ethMinFrame ≤ 4014) ∧ 4014 ≤ manyTags.opr.winLen.toNat ∧
    ∀ j, j < 1000 → manyTags.be16 (0 + 12 + 4 * j) = build.tpid := by
  refine ⟨build_admissible, by decide, by decide, by decide, by decide, fun j hj => ?_⟩
  have key : ∀ a, a < 4014 → manyTags.byteAt a = if a % 4 = 0 then 0x81 else 0 := by
    intro a ha
    have := stored_map_range (fun a => if a % 4 = 0 then 0x81 else 0) 4014 0 a (by omega) (by omega)
    simp only [manyTags, State.byteAt, this]
  rw [State.be16, key _ (by omega), key _ (by omega), if_pos (by omega), if_neg (by omega)]
  decide

theorem witness_extensionHeaders :
    (∀ v ∈ ipv6ExtensionNumbers, v ∉ [1, 6, 17, 58]) ∧
    ∀ next ∈ [0, 43, 140, 254],
      let s := opened .ip6 (framed (ip6Header.set 6 next));
      s.deepReady ∧ s.layers.length < build.maxDepth ∧ s.dp.next = .ip6 ∧ 40 ≤ s.dp.len.toNat ∧ s.version 0 = 6 ∧
      s.byteAt (0 + 6) ∉ [1, 6, 17, 58] := by
  unfold State.deepReady; decide

end Sys2Proof.Tests
end

section
/-! Deep parses: what the body of a step answers where it is known, and a parse that finds nothing but 802.1Q tags
(00_scope R6, 44_dispatch_deep R201 to R203). -/

namespace Sys2Proof.Machine

/-! ### The window and the start of a parse -/

/-- A slice that passes the window check ends at most at the largest `BUF_SIZE`, so none of its addresses wraps
(00_scope R5, 60_exceptions R234). -/
theorem State.sliceOk_end_le {P : Params} (hP : P.Admissible) {s : State} {o n : Nat} (h : s.sliceOk P o n) :
    o + n ≤ 65536 :=
  h.1.trans (h.2.trans hP.bufSize_max)

/-- The state a deep parse from `kind` starts in: no layer, the window as its slice (44_dispatch_deep R200). -/
def State.parseOpened (s : State) (kind : Kind) : State :=
  ((s.setLayers []).setDp
    { state := .parsing, next := kind, off := s.opr.winOff, len := s.opr.winLen, opqOff := 0, opqLen := 0 }).succeed

@[simp] theorem State.parseOpened_layers (s : State) (kind : Kind) : (s.parseOpened kind).layers = [] := rfl
@[simp] theorem State.parseOpened_state (s : State) (kind : Kind) : (s.parseOpened kind).dp.state = .parsing := rfl

/-- `DEEP.START` on a good window (44_dispatch_deep R200). -/
theorem deepStartCmd_ok {P : Params} {kind : Kind} {s : State} (hk : kind ≠ Kind.none) (hw : s.windowOk P) :
    deepStartCmd P kind s = s.parseOpened kind := by
  rw [deepStartCmd, if_neg hk, if_neg (not_not.2 hw), State.parseOpened]

/-- `DEEP.RUN` while parsing a good slice is its loop (44_dispatch_deep R207). -/
theorem deepRunCmd_ok {P : Params} {s : State} (hp : s.dp.state = .parsing) (hd : s.deepOk P) :
    deepRunCmd P s = deepLoop P (P.maxDepth + 1) s := by
  rw [deepRunCmd, deepCommand, if_neg (not_not.2 hp), if_neg (not_not.2 hd)]

/-! ### The body of a step -/

/-- With `MAX_DEPTH` layers decoded a step fails before any parser runs (44_dispatch_deep R203). -/
theorem deepBody_full {P : Params} {s : State} (h : P.maxDepth ≤ s.layers.length) :
    deepBody P s = some (s.deepFailed .maxDepthExceeded) := by
  rw [deepBody, if_pos (by rwa [State.nlayers_eq]), deepFail_eq]

/-- Below the depth bound a step appends the record its parser decodes (44_dispatch_deep R201). -/
theorem deepBody_decodes {P : Params} {s : State} {rec : LayerRec} (hn : s.layers.length < P.maxDepth)
    (hr : runParser P s s.dp.next s.dp.off.toNat s.dp.len.toNat = some (.ok rec)) :
    deepBody P s = some (deepAppend P s rec) := by
  rw [deepBody, if_neg (by rwa [State.nlayers_eq, not_le]), hr]

@[simp] theorem deepAppend_dp (P : Params) (s : State) (rec : LayerRec) :
    (deepAppend P s rec).dp = sequencerAfter P s.dp rec := rfl

/-- Decoding a layer changes no byte of the buffer. -/
@[simp] theorem deepAppend_be16 (P : Params) (s : State) (rec : LayerRec) (a : Nat) :
    (deepAppend P s rec).be16 a = s.be16 a := rfl

theorem sequencerAfter_known {P : Params} {d : Sequencer} {rec : LayerRec} (h : dispatch P rec.ind ≠ Kind.none) :
    sequencerAfter P d rec = { d with next := dispatch P rec.ind, off := rec.payOff, len := rec.payLen } :=
  if_pos h

/-! ### Tags up to the depth bound -/

/-- A parse about to decode a tag, with `m` tags ahead inside its slice, each of which has `TPID` as its EtherType. -/
structure State.TagsAhead (P : Params) (m : Nat) (s : State) : Prop where
  parsing : s.dp.state = .parsing
  next : s.dp.next = .vlan
  noWrap : s.dp.off.toNat + s.dp.len.toNat < 2 ^ 32
  room : 4 * m ≤ s.dp.len.toNat
  tags : ∀ j, j < m → s.be16 (s.dp.off.toNat + 2 + 4 * j) = P.tpid

section
variable {P : Params} {s : State} {m : Nat} (hv : P.etypeTable P.tpid = .vlan)
include hv

/-- A layer that names `TPID` as what follows hands its payload to the tag parser (44_dispatch_deep R190, R201). -/
theorem deepAppend_tagsAhead {rec : LayerRec} (hp : s.dp.state = .parsing) (hind : rec.ind = .etype P.tpid)
    (hwrap : rec.payOff.toNat + rec.payLen.toNat < 2 ^ 32) (hroom : 4 * m ≤ rec.payLen.toNat)
    (htags : ∀ j, j < m → s.be16 (rec.payOff.toNat + 2 + 4 * j) = P.tpid) :
    (deepAppend P s rec).TagsAhead P m := by
  have hd : dispatch P rec.ind = .vlan := by rw [hind]; exact hv
  have hdp : (deepAppend P s rec).dp = { s.dp with next := .vlan, off := rec.payOff, len := rec.payLen } := by
    rw [deepAppend_dp, sequencerAfter_known (by rw [hd]; decide), hd]
  refine ⟨by rwa [hdp], by rw [hdp], by rwa [hdp], by rwa [hdp], fun j hj => ?_⟩
  rw [hdp, deepAppend_be16]
  exact htags j hj

/-- One tag: it is decoded and the tags behind it are ahead (42_parsers_link_net R145). -/
theorem State.TagsAhead.step (h : s.TagsAhead P (m + 1)) (hn : s.layers.length < P.maxDepth) :
    ∃ rec, deepBody P s = some (deepAppend P s rec) ∧ (deepAppend P s rec).TagsAhead P m := by
  obtain ⟨hparsing, hnext, hwrap, hroom, htags⟩ := h
  have hrun : runParser P s s.dp.next s.dp.off.toNat s.dp.len.toNat =
      some (.ok (s.vlanRecord s.dp.off.toNat s.dp.len.toNat)) := by
    rw [hnext, runParser_answer, State.firstFailure, if_neg (by omega)]
    rfl
  have hoff : (s.vlanRecord s.dp.off.toNat s.dp.len.toNat).payOff.toNat = s.dp.off.toNat + 4 :=
    Nat.mod_eq_of_lt (by omega)
  have hlen : (s.vlanRecord s.dp.off.toNat s.dp.len.toNat).payLen.toNat = s.dp.len.toNat - 4 :=
    Nat.mod_eq_of_lt (by omega)
  refine ⟨_, deepBody_decodes hn hrun, deepAppend_tagsAhead hv hparsing ?_ (by omega) (by omega) fun j hj => ?_⟩
  · exact congrArg NextInd.etype (htags 0 (by omega))
  · rw [hoff, ← htags (j + 1) (by omega)]
    congr 1
    omega

/-- Decoding never gets past tags: with `d` layers left below the bound and at least as many tags ahead, the loop ends
in the depth failure (44_dispatch_deep R203). -/
theorem State.TagsAhead.deepLoop_fails (d : Nat) (h : s.TagsAhead P m) (hd : s.layers.length + d = P.maxDepth)
    (hm : d ≤ m) :
    ∃ t : State, t.layers.length = P.maxDepth ∧ deepLoop P (d + 1) s = some (t.deepFailed .maxDepthExceeded) := by
  induction d generalizing s m with
  | zero =>
    refine ⟨s, hd, ?_⟩
    rw [deepLoop_parsing _ h.parsing, deepBody_full (by omega)]
    rfl
  | succ d ih =>
    obtain ⟨m, rfl⟩ : ∃ k, m = k + 1 := ⟨m - 1, by omega⟩
    obtain ⟨rec, hbody, hahead⟩ := h.step hv (by omega)
    rw [deepLoop_parsing _ h.parsing, hbody]
    exact ih hahead (by rw [deepAppend_layers, List.length_append, List.length_singleton]; omega) (by omega)

/-- The frame's first layer: a tagged Ethernet header takes the first `TPID` and its own EtherType, the second one;
the tags after it are ahead (42_parsers_link_net R143). -/
theorem deepBody_eth_tagsAhead (hparsing : s.dp.state = .parsing) (hnext : s.dp.next = .eth)
    (hn : s.layers.length < P.maxDepth) (hwrap : s.dp.off.toNat + s.dp.len.toNat < 2 ^ 32)
    (hmin : s.opr.fcsEn = true → P.ethMinFrame ≤ s.dp.len.toNat) (hroom : 4 * m + 22 ≤ s.dp.len.toNat)
    (htags : ∀ j, j < m + 2 → s.be16 (s.dp.off.toNat + 12 + 4 * j) = P.tpid) :
    ∃ rec, deepBody P s = some (deepAppend P s rec) ∧ (deepAppend P s rec).TagsAhead P m := by
  have htpid : s.be16 (s.dp.off.toNat + 12) = P.tpid := htags 0 (by omega)
  have hhdr : s.ethHeader P s.dp.off.toNat = 18 := if_pos htpid
  have hrun : runParser P s s.dp.next s.dp.off.toNat s.dp.len.toNat =
      some (.ok (s.ethRecord P s.dp.off.toNat s.dp.len.toNat)) := by
    rw [hnext, runParser_answer, State.firstFailure, if_neg (fun hc => absurd (hmin hc.1) (by omega)),
      if_neg (by omega), if_neg (by omega)]
    rfl
  have hoff : (s.ethRecord P s.dp.off.toNat s.dp.len.toNat).payOff.toNat = s.dp.off.toNat + 18 := by
    rw [State.ethRecord, hhdr]
    exact Nat.mod_eq_of_lt (by omega)
  have hlen : (s.ethRecord P s.dp.off.toNat s.dp.len.toNat).payLen.toNat =
      if s.opr.fcsEn then s.dp.len.toNat - 4 - 18 else s.dp.len.toNat - 18 := by
    rw [State.ethRecord, hhdr]
    exact Nat.mod_eq_of_lt (by split <;> omega)
  refine ⟨_, deepBody_decodes hn hrun, deepAppend_tagsAhead hv hparsing ?_ ?_ ?_ fun j hj => ?_⟩
  · rw [State.ethRecord, hhdr]
    exact congrArg NextInd.etype (htags 1 (by omega))
  · rw [hoff, hlen]
    split <;> omega
  · rw [hlen]
    split <;> omega
  · rw [hoff, ← htags (j + 2) (by omega)]
    congr 1
    omega

end

/-- Settles O53: the Ethernet layer leaves 998 tags ahead, more than `MAX_DEPTH` layers can take, so the loop decodes
up to the bound and the step after it fails. -/
theorem nestedTagsExceedTheDepthBound : Obligations.NestedTagsExceedTheDepthBound := by
  intro P s hP hv off len hw hmin hlen htags
  have hend : off + len ≤ 65536 := State.sliceOk_end_le hP hw
  have hdepth := hP.maxDepth_max
  obtain ⟨n, hmax⟩ : ∃ n, P.maxDepth = n + 1 :=
    Nat.exists_eq_succ_of_ne_zero (Nat.pos_iff_ne_zero.1 hP.maxDepth_min)
  obtain ⟨rec, hbody, hahead⟩ : ∃ rec,
      deepBody P (s.parseOpened .eth) = some (deepAppend P (s.parseOpened .eth) rec) ∧
      (deepAppend P (s.parseOpened .eth) rec).TagsAhead P 998 :=
    deepBody_eth_tagsAhead hv rfl rfl hP.maxDepth_min (show off + len < 2 ^ 32 by omega) hmin hlen htags
  obtain ⟨t, hfull, hloop⟩ := hahead.deepLoop_fails hv n
    (by rw [deepAppend_layers, State.parseOpened_layers, hmax]; exact Nat.add_comm 1 n) (by omega)
  refine ⟨t.deepFailed .maxDepthExceeded, ?_, ?_, hfull, rfl⟩
  · calc deepRunCmd P (deepStartCmd P .eth s)
      _ = deepRunCmd P (s.parseOpened .eth) := by rw [deepStartCmd_ok (by decide) hw]
      _ = deepLoop P (P.maxDepth + 1) (s.parseOpened .eth) := deepRunCmd_ok rfl hw
      _ = deepLoop P (n + 1) (deepAppend P (s.parseOpened .eth) rec) := by
          rw [deepLoop_parsing _ (State.parseOpened_state s .eth), hbody, hmax]
          rfl
      _ = some (t.deepFailed .maxDepthExceeded) := hloop
  · rw [← hfull]
    rfl

end Sys2Proof.Machine
end

section
/-! The record a parser decodes is a valid slot that covers the window it was given (10_state R43 to R52). -/

namespace Sys2Proof.Machine

/-! ### Outcomes of the parsers -/

/-- Every test of a parser fails with an error code (60_exceptions R231). -/
theorem State.firstFailure_isError {P : Params} {s : State} {kind : Kind} {off len : Nat} {ph : PseudoHeader}
    {code : Code} (h : s.firstFailure P kind off len ph = some code) : code.isError = true := by
  unfold State.firstFailure at h
  split at h
  case h_1 => cases h
  all_goals split_ifs at h <;> cases h <;> rfl

/-- No indicator selects the Ethernet parser (00_scope R8). -/
theorem dispatch_ne_eth {P : Params} (hP : P.Admissible) (ind : NextInd) : dispatch P ind ≠ .eth := by
  intro h
  cases ind with
  | none => cases h
  | etype v => simpa [show P.etypeTable v = .eth from h] using hP.etype_range v
  | ipproto v => simpa [show P.ipprotoTable v = .eth from h] using hP.ipproto_range v

/-! ### Slices of a record -/

/-- The slices of a record made from the window `(off, len)`: `hdr` bytes of header, the last `opt` of them options,
then the payload, then the trailer (42_parsers_link_net R141, 10_state R45). -/
structure LayerRec.Covers (r : LayerRec) (off len hdr opt : Nat) : Prop where
  hdrOff : r.hdrOff = BitVec.ofNat 32 off
  hdrLen : r.hdrLen = BitVec.ofNat 32 hdr
  payOff : r.payOff = BitVec.ofNat 32 (off + hdr)
  payLen : r.payLen = BitVec.ofNat 32 (len - r.trailer - hdr)
  optOff : r.optOff = BitVec.ofNat 32 (off + hdr - opt)
  optLen : r.optLen = BitVec.ofNat 32 opt
  fits : hdr + r.trailer ≤ len
  options : opt ≤ hdr

section
variable {r : LayerRec} {off len hdr opt : Nat} (h : r.Covers off len hdr opt) (hend : off + len < 2 ^ 32)
include h hend

theorem LayerRec.Covers.hdrOff_toNat : r.hdrOff.toNat = off := by
  rw [h.hdrOff]; exact Nat.mod_eq_of_lt (by omega)

theorem LayerRec.Covers.hdrLen_toNat : r.hdrLen.toNat = hdr := by
  have := h.fits
  rw [h.hdrLen]; exact Nat.mod_eq_of_lt (by omega)

theorem LayerRec.Covers.payOff_toNat : r.payOff.toNat = off + hdr := by
  have := h.fits
  rw [h.payOff]; exact Nat.mod_eq_of_lt (by omega)

theorem LayerRec.Covers.payLen_toNat : r.payLen.toNat = len - r.trailer - hdr := by
  rw [h.payLen]; exact Nat.mod_eq_of_lt (by omega)

theorem LayerRec.Covers.optOff_toNat : r.optOff.toNat = off + hdr - opt := by
  have := h.fits
  rw [h.optOff]; exact Nat.mod_eq_of_lt (by omega)

theorem LayerRec.Covers.optLen_toNat : r.optLen.toNat = opt := by
  have := h.fits
  have := h.options
  rw [h.optLen]; exact Nat.mod_eq_of_lt (by omega)

end

/-- A slot a parser of `kind` decoded from the window `(off, len)`: valid, and its slices cover the window. -/
structure LayerRec.DecodedFrom (P : Params) (kind : Kind) (off len : Nat) (r : LayerRec) : Prop where
  valid : r.Valid P
  kind_eq : r.kind = kind
  hdrOff : r.hdrOff = BitVec.ofNat 32 off
  payEnd : r.payOff.toNat + r.payLen.toNat + r.trailer = off + len

theorem LayerRec.Covers.decodedFrom {P : Params} {r : LayerRec} {off len hdr opt : Nat}
    (h : r.Covers off len hdr opt) (hend : off + len < 2 ^ 32) (hbuf : off + len ≤ P.bufSize)
    (hck : r.ckValid = true → r.ckChecked = true) (hshape : r.shape) : r.DecodedFrom P r.kind off len := by
  have hfits := h.fits
  have hopt := h.options
  have hpay : r.payOff.toNat + r.payLen.toNat + r.trailer = off + len := by
    rw [h.payOff_toNat hend, h.payLen_toNat hend]; omega
  refine ⟨⟨?_, by omega, ?_, hck, hshape⟩, rfl, h.hdrOff, hpay⟩
  · rw [h.payOff_toNat hend, h.hdrOff_toNat hend, h.hdrLen_toNat hend]
  · rw [h.optOff_toNat hend, h.optLen_toNat hend, h.hdrOff_toNat hend, h.hdrLen_toNat hend]; omega

/-! ### The records -/

section
variable (P : Params) (s : State) {off len : Nat} (hend : off + len < 2 ^ 32) (hbuf : off + len ≤ P.bufSize)

theorem State.ethHeader_cases (off : Nat) :
    (s.be16 (off + 12) = P.tpid ∧ s.ethHeader P off = 18) ∨ (s.be16 (off + 12) ≠ P.tpid ∧ s.ethHeader P off = 14) := by
  by_cases h : s.be16 (off + 12) = P.tpid
  · exact .inl ⟨h, if_pos h⟩
  · exact .inr ⟨h, if_neg h⟩

@[simp] theorem State.ethRecord_trailer :
    (s.ethRecord P off len).trailer = if s.opr.fcsEn = true then 4 else 0 := by
  simp [LayerRec.trailer, LayerRec.kind, LayerBody.kind, State.ethRecord]

theorem State.ethRecord_covers (hlen : s.ethHeader P off + (if s.opr.fcsEn = true then 4 else 0) ≤ len) :
    (s.ethRecord P off len).Covers off len (s.ethHeader P off) 0 := by
  refine ⟨rfl, rfl, rfl, ?_, rfl, rfl, by rwa [State.ethRecord_trailer], Nat.zero_le _⟩
  rw [State.ethRecord_trailer]
  cases hf : s.opr.fcsEn <;> simp [State.ethRecord, hf]

theorem State.ethRecord_shape : (s.ethRecord P off len).shape := by
  have hhdr : (s.ethRecord P off len).hdrLen = if (s.ethRecord P off len).tagged then 18 else 14 := by
    rcases s.ethHeader_cases P off with ⟨ht, hh⟩ | ⟨ht, hh⟩ <;> simp [State.ethRecord, ht, hh]
  refine ⟨hhdr, rfl, rfl, rfl, fun ht => ?_, fun hc => ?_⟩
  · have ht' : decide (s.be16 (off + 12) = P.tpid) = false := ht
    exact if_neg (by rw [ht']; decide)
  · have hc' : s.opr.fcsEn = false := hc
    exact if_neg (by rw [hc']; decide)

theorem State.vlanRecord_covers (hlen : 4 ≤ len) : (s.vlanRecord off len).Covers off len 4 0 :=
  ⟨rfl, rfl, rfl, rfl, rfl, rfl, hlen, Nat.zero_le _⟩

theorem State.vlanRecord_shape : (s.vlanRecord off len).shape := ⟨rfl, rfl, rfl, rfl, rfl, rfl⟩

theorem State.ip4Record_covers (h5 : 5 ≤ s.ihl off) (hlen : 4 * s.ihl off ≤ len) :
    (s.ip4Record off len).Covers off len (4 * s.ihl off) (4 * s.ihl off - 20) :=
  ⟨rfl, rfl, rfl, rfl, by rw [show off + 4 * s.ihl off - (4 * s.ihl off - 20) = off + 20 by omega]; rfl, rfl,
    hlen, Nat.sub_le _ _⟩

include hend in
theorem State.ip4Record_shape (h5 : 5 ≤ s.ihl off) (hlen : 4 * s.ihl off ≤ len) : (s.ip4Record off len).shape :=
  have hcov := s.ip4Record_covers h5 hlen
  ⟨rfl, h5, hcov.hdrLen_toNat hend, hcov.optLen_toNat hend, rfl, rfl, rfl, rfl⟩

theorem State.ip6Record_covers (hlen : 40 ≤ len) : (s.ip6Record off len).Covers off len 40 0 :=
  ⟨rfl, rfl, rfl, rfl, rfl, rfl, hlen, Nat.zero_le _⟩

theorem State.ip6Record_shape : (s.ip6Record off len).shape := ⟨rfl, rfl, rfl, rfl, rfl, rfl, rfl⟩

variable (ph : PseudoHeader)

theorem State.tcpRecord_covers (h5 : 5 ≤ s.doff off) (hlen : 4 * s.doff off ≤ len) :
    (s.tcpRecord off len ph).Covers off len (4 * s.doff off) (4 * s.doff off - 20) :=
  ⟨rfl, rfl, rfl, rfl, by rw [show off + 4 * s.doff off - (4 * s.doff off - 20) = off + 20 by omega]; rfl, rfl,
    hlen, Nat.sub_le _ _⟩

include hend in
theorem State.tcpRecord_shape (h5 : 5 ≤ s.doff off) (hlen : 4 * s.doff off ≤ len) :
    (s.tcpRecord off len ph).shape :=
  have hcov := s.tcpRecord_covers ph h5 hlen
  ⟨h5, hcov.hdrLen_toNat hend, hcov.optLen_toNat hend, rfl, rfl, rfl, rfl⟩

theorem State.udpRecord_covers (hlen : 8 ≤ len) : (s.udpRecord off len ph).Covers off len 8 0 :=
  ⟨rfl, rfl, rfl, rfl, rfl, rfl, hlen, Nat.zero_le _⟩

include hend in
theorem State.udpRecord_shape (hlen : 8 ≤ len) : (s.udpRecord off len ph).shape := by
  have hpay : (s.udpRecord off len ph).payLen.toNat = len - 8 :=
    (s.udpRecord_covers ph hlen).payLen_toNat hend
  have hmis : (s.udpRecord off len ph).lenMismatch = true ↔ (s.be16 (off + 4)).toNat ≠ len := decide_eq_true_iff
  refine ⟨rfl, rfl, rfl, rfl, rfl, ?_⟩
  rw [hmis, hpay, show 8 + (len - 8) = len by omega]

theorem State.icmpRecord_covers (hlen : 4 ≤ len) : (s.icmpRecord off len ph).Covers off len 4 0 :=
  ⟨rfl, rfl, rfl, rfl, rfl, rfl, hlen, Nat.zero_le _⟩

theorem State.icmpRecord_shape : (s.icmpRecord off len ph).shape := ⟨rfl, rfl, rfl, rfl, rfl, rfl⟩

end

/-- An Ethernet frame that passes its tests has room for its header and its FCS: a minimum frame of 22 bytes keeps a
tagged header and the FCS apart (42_parsers_link_net R143, log 19). -/
theorem State.ethWindow_fits {P : Params} {s : State} {off len : Nat} {ph : PseudoHeader} (hmin : 22 ≤ P.ethMinFrame)
    (hok : s.firstFailure P .eth off len ph = none) :
    s.ethHeader P off + (if s.opr.fcsEn = true then 4 else 0) ≤ len := by
  simp only [State.firstFailure] at hok
  split_ifs at hok with hfcs h14 h18
  have hhdr : s.ethHeader P off ≤ len ∧ s.ethHeader P off ≤ 18 := by
    rcases s.ethHeader_cases P off with ⟨ht, hh⟩ | ⟨_, hh⟩
    · exact ⟨hh ▸ not_lt.1 fun hl => h18 ⟨ht, hl⟩, by omega⟩
    · omega
  split
  · next hf =>
    have hlen : P.ethMinFrame ≤ len := not_lt.1 fun hl => hfcs ⟨hf, hl⟩
    omega
  · omega

/-- What a parser decodes once none of its tests fails is a valid slot that covers the window. -/
theorem State.layerRecord_decodedFrom {P : Params} {s : State} {kind : Kind} {off len : Nat} {ph : PseudoHeader}
    {rec : LayerRec} (hmin : 22 ≤ P.ethMinFrame) (hend : off + len < 2 ^ 32) (hbuf : off + len ≤ P.bufSize)
    (hok : s.firstFailure P kind off len ph = none) (hrec : s.layerRecord P kind off len ph = some rec) :
    rec.DecodedFrom P kind off len := by
  cases kind with
  | none => cases hrec
  | eth =>
    cases hrec
    exact (s.ethRecord_covers P (State.ethWindow_fits hmin hok)).decodedFrom hend hbuf
      (fun h => (Bool.and_eq_true_iff.1 h).1) (s.ethRecord_shape P)
  | vlan =>
    cases hrec
    simp only [State.firstFailure] at hok
    split_ifs at hok with h4
    exact (s.vlanRecord_covers (by omega)).decodedFrom hend hbuf (fun h => by cases h) s.vlanRecord_shape
  | ip4 =>
    cases hrec
    simp only [State.firstFailure] at hok
    split_ifs at hok with _ _ h5 hl
    exact (s.ip4Record_covers (by omega) (by omega)).decodedFrom hend hbuf (fun _ => rfl)
      (s.ip4Record_shape hend (by omega) (by omega))
  | ip6 =>
    cases hrec
    simp only [State.firstFailure] at hok
    split_ifs at hok with _ _ h40
    exact (s.ip6Record_covers (by omega)).decodedFrom hend hbuf (fun h => by cases h) s.ip6Record_shape
  | tcp =>
    cases hrec
    simp only [State.firstFailure] at hok
    split_ifs at hok with _ h5 hl
    exact (s.tcpRecord_covers ph (by omega) (by omega)).decodedFrom hend hbuf (fun _ => rfl)
      (s.tcpRecord_shape hend ph (by omega) (by omega))
  | udp =>
    cases hrec
    simp only [State.firstFailure] at hok
    split_ifs at hok with h8
    exact (s.udpRecord_covers ph (by omega)).decodedFrom hend hbuf (fun _ => rfl)
      (s.udpRecord_shape hend ph (by omega))
  | icmp =>
    cases hrec
    simp only [State.firstFailure] at hok
    split_ifs at hok with h4
    exact (s.icmpRecord_covers ph (by omega)).decodedFrom hend hbuf (fun _ => rfl) (s.icmpRecord_shape ph)

end Sys2Proof.Machine
end

section
/-! Every operation of a step keeps the invariant of a run (10_state R35, R37, R43, R45, 60_exceptions R231). -/

namespace Sys2Proof.Machine

/-- The reset state meets the invariant, in every build (10_state R53). -/
theorem State.reset_inv (P : Params) : State.reset.Inv P where
  memory := reset_memory_wf P
  cursor := Nat.le_refl 0
  cursorSlice := Nat.zero_le _
  depth := Nat.zero_le _
  records := fun _ hr => by cases hr
  chained := List.isChain_nil
  slice := Nat.zero_le _
  opaqueSlice := Nat.zero_le _
  sequencer := trivial
  statusErr := rfl
  statusLayer := Nat.zero_le _

/-- The platform's reset puts the reset state's buffer and registers in place (70_reset_and_hazards R260). -/
theorem platformReset_inv (P : Params) (s : State) : (platformReset s).Inv P := { State.reset_inv P with }

theorem answerOf_eq_error {failure : Option Code} {rec : LayerRec} {code : Code} :
    answerOf failure rec = .error code ↔ failure = some code := by
  cases failure <;> simp

theorem answerOf_eq_ok {failure : Option Code} {rec r : LayerRec} :
    answerOf failure rec = .ok r ↔ failure = none ∧ rec = r := by
  cases failure <;> simp

/-- What 10_state R37 says of the state `PARSING`. -/
theorem State.sequencerOk_parsing {P : Params} {s : State} (hp : s.dp.state = .parsing) :
    s.sequencerOk P ↔ s.dp.next ≠ .none ∧ s.dp.opqOff = 0 ∧ s.dp.opqLen = 0 ∧ s.sliceFollows ∧
      ∀ r, s.layers.getLast? = some r → dispatch P r.ind = s.dp.next := by
  rw [State.sequencerOk, hp]

/-! ### Register updates

The invariant speaks of the buffer, the cursor, the layer file, the sequencer and `STATUS`, so every update of another
field keeps it. -/

section
variable {P : Params} {s : State} (h : s.Inv P)
include h

theorem State.Inv.setOpr (o : Operands) : (s.setOpr o).Inv P := { h with }
theorem State.Inv.setRes (r : Results) : (s.setRes r).Inv P := { h with }
theorem State.Inv.setRval (v : Word) : (s.setRval v).Inv P := h.setRes _
theorem State.Inv.setNextSlice : s.setNextSlice.Inv P := h.setRes _
theorem State.Inv.setHostOps (ops : List HostOp) : (s.setHostOps ops).Inv P := { h with }
theorem State.Inv.setReadData (d : Word) : (s.setReadData d).Inv P := { h with }

theorem State.Inv.storeBytes {a : Nat} {bytes : List Byte} (ha : a + bytes.length ≤ P.bufSize) :
    (s.setMem (Memory.putBytes s.mem a bytes)).Inv P :=
  { h with memory := Memory.wf_putBytes bytes ha h.memory }

theorem State.Inv.setCur {c : CursorRegs} (hpos : c.pos.toNat ≤ c.len.toNat)
    (hend : c.base.toNat + c.len.toNat ≤ P.bufSize) : (s.setCur c).Inv P :=
  { h with cursor := hpos, cursorSlice := hend }

/-! ### The two outcomes of a command -/

theorem State.Inv.setStatus {st : Status} (herr : st.err = st.code.isError) (hlayer : st.layer.toNat ≤ P.maxDepth) :
    (s.setStatus st).Inv P :=
  { h with statusErr := herr, statusLayer := hlayer }

theorem State.Inv.succeed : s.succeed.Inv P := h.setStatus rfl (Nat.zero_le _)

theorem State.Inv.fail {code : Code} (hc : code.isError = true) {k : Nat} (hk : k ≤ P.maxDepth) :
    (s.fail code k).Inv P :=
  h.setStatus hc.symm ((Nat.mod_le k _).trans hk)

/-- The `STATUS` of a lookup is one of the two pairs without `ERR` (60_exceptions R231). -/
theorem State.Inv.lookup (unmapped : Bool) {k : Nat} (hk : k ≤ P.maxDepth) :
    (s.setStatus (lookupStatus unmapped k)).Inv P :=
  h.setStatus (by cases unmapped <;> rfl) ((Nat.mod_le k _).trans hk)

/-! ### The cursor commands -/

theorem State.Inv.openCursor (hw : s.windowOk P) :
    (s.setCur { base := s.opr.winOff, len := s.opr.winLen, pos := 0 }).Inv P :=
  h.setCur (Nat.zero_le _) (hw.1.trans hw.2)

/-- Moving on by bytes that are left keeps the cursor inside its slice (40_cursor R110 (a)). -/
theorem State.Inv.bumpPos {n : Nat} (hn : n ≤ s.curRemaining) : (s.bumpPos n).Inv P := by
  have hpos := h.cursor
  have hmod : (BitVec.ofNat 32 (s.cur.pos.toNat + n)).toNat ≤ s.cur.pos.toNat + n := Nat.mod_le _ _
  unfold State.curRemaining at hn
  have hle : s.cur.pos.toNat + n ≤ s.cur.len.toNat := by omega
  exact h.setCur (hmod.trans hle) h.cursorSlice

theorem State.Inv.cursorCommand {n : Nat} {effect : State} (heffect : n ≤ s.curRemaining → effect.Inv P) :
    (cursorCommand P s n effect).Inv P := by
  rcases cursorCommand_cases P s n effect with ⟨_, he⟩ | ⟨_, _, he⟩ | ⟨_, hn, he⟩ <;> rw [he]
  · exact h.fail rfl (Nat.zero_le _)
  · exact h.fail rfl (Nat.zero_le _)
  · exact heffect hn

theorem State.Inv.curOpenCmd : (curOpenCmd P s).Inv P := by
  rcases curOpenCmd_cases P s with ⟨_, he⟩ | ⟨hw, he⟩ <;> rw [he]
  · exact h.fail rfl (Nat.zero_le _)
  · exact (h.openCursor hw).succeed

theorem State.Inv.curReadCmd (w : Nat) : (curReadCmd P w s).Inv P :=
  h.cursorCommand fun hn => State.Inv.succeed (State.Inv.bumpPos (h.setRval _) hn)

theorem State.Inv.curRdbCmd : (curRdbCmd P s).Inv P :=
  h.cursorCommand fun hn => (h.setNextSlice.bumpPos hn).succeed

theorem State.Inv.curPeekCmd : (curPeekCmd P s).Inv P := h.cursorCommand fun _ => h.setNextSlice.succeed

theorem State.Inv.curRemCmd : (curRemCmd s).Inv P := (h.setRval _).succeed

theorem State.Inv.curSkipCmd : (curSkipCmd s).Inv P := by
  rcases curSkipCmd_cases s with ⟨_, he⟩ | ⟨hn, he⟩ <;> rw [he]
  · exact h.fail rfl (Nat.zero_le _)
  · exact (h.bumpPos hn).succeed

/-! ### The checksum commands, the dispatcher and `CLEAR` -/

theorem State.Inv.csumCommand (p : Nat) (verify : Nat → Nat → Verdict) : (csumCommand P s p verify).Inv P := by
  rcases csumCommand_cases P s p verify with ⟨_, he⟩ | ⟨_, _, he⟩ | ⟨_, _, he⟩ <;> rw [he]
  · exact h.fail rfl (Nat.zero_le _)
  · exact h.fail rfl (Nat.zero_le _)
  · exact (h.setRes _).succeed

theorem State.Inv.csumXportCmd (x : Xport) : (csumXportCmd P x s).Inv P := by
  rcases csumXportCmd_cases P x s with ⟨_, he⟩ | ⟨ph, _, he⟩ <;> rw [he]
  · exact h.fail rfl (Nat.zero_le _)
  · exact h.csumCommand _ _

theorem State.Inv.dispatchResult (k : Kind) : (dispatchResult s k).Inv P := (h.setRes _).lookup _ (Nat.zero_le _)

/-- `CLEAR` leaves the buffer as it is and resets everything else the invariant speaks of (45_system R222). -/
theorem State.Inv.clearCmd : (clearCmd s).Inv P :=
  { State.reset_inv P with memory := h.memory }

/-! ### Shallow parses -/

theorem State.Inv.parseFailed {code : Code} (hc : code.isError = true) : (s.parseFailed code).Inv P :=
  { h with depth := Nat.zero_le _, records := fun _ hr => (by cases hr), chained := List.isChain_nil,
           sequencer := trivial, statusErr := hc.symm, statusLayer := Nat.zero_le _ }

theorem State.Inv.parseDone {rec : LayerRec} (hP : P.Admissible) (hrec : rec.Valid P) : (s.parseDone rec).Inv P :=
  { h with depth := hP.maxDepth_min, records := fun _ hr => List.mem_singleton.1 hr ▸ hrec,
           chained := List.isChain_singleton _, sequencer := trivial, statusErr := rfl, statusLayer := Nat.zero_le _ }

section
variable (hP : P.Admissible) (hmin : 22 ≤ P.ethMinFrame)
include hP hmin

/-- A parser's answer on a window inside the buffer, put into the layer file. -/
theorem State.Inv.shallowAnswer {kind : Kind} {off len : Nat} {ph : PseudoHeader} {rec : LayerRec}
    (hw : off + len ≤ P.bufSize) (hrec : s.layerRecord P kind off len ph = some rec) :
    (shallowResult s (answerOf (s.firstFailure P kind off len ph) rec)).Inv P := by
  have hmax := hP.bufSize_max
  cases hf : s.firstFailure P kind off len ph with
  | none => exact h.parseDone hP (State.layerRecord_decodedFrom hmin (by omega) hw hf hrec).valid
  | some code => exact h.parseFailed (State.firstFailure_isError hf)

theorem State.Inv.parseCommand {kind : Kind} {ph : PseudoHeader} {rec : Nat → Nat → LayerRec}
    {parser : Nat → Nat → Except Code LayerRec}
    (hrec : ∀ off len, s.layerRecord P kind off len ph = some (rec off len))
    (hparser : ∀ off len, parser off len = answerOf (s.firstFailure P kind off len ph) (rec off len)) :
    (parseCommand P s parser).Inv P := by
  rcases parseCommand_cases P s parser with ⟨_, he⟩ | ⟨hw, he⟩ <;> rw [he]
  · exact h.fail rfl (Nat.zero_le _)
  · rw [hparser]
    exact h.shallowAnswer hP hmin (hw.1.trans hw.2) (hrec _ _)

theorem State.Inv.transportCommand {kind : Kind} {rec : PseudoHeader → Nat → Nat → LayerRec}
    {parser : PseudoHeader → Nat → Nat → Except Code LayerRec}
    (hrec : ∀ ph off len, s.layerRecord P kind off len ph = some (rec ph off len))
    (hparser : ∀ ph off len, parser ph off len = answerOf (s.firstFailure P kind off len ph) (rec ph off len)) :
    (transportCommand P s parser).Inv P := by
  rcases transportCommand_cases P s parser with ⟨_, he⟩ | ⟨ph, _, he⟩ <;> rw [he]
  · exact h.fail rfl (Nat.zero_le _)
  · exact h.parseCommand hP hmin (hrec ph) (hparser ph)

end

/-! ### Deep parses -/

/-- `DEEP.START` on a good window: no layer, a parser selected, no opaque payload (10_state R37). -/
theorem State.Inv.parseOpened {kind : Kind} (hk : kind ≠ .none) (hw : s.windowOk P) : (s.parseOpened kind).Inv P :=
  { h with depth := Nat.zero_le _, records := fun _ hr => (by cases hr), chained := List.isChain_nil,
           slice := hw.1.trans hw.2, opaqueSlice := Nat.zero_le _,
           sequencer := ⟨hk, rfl, rfl, fun _ hr => (by cases hr), fun _ hr => (by cases hr)⟩,
           statusErr := rfl, statusLayer := Nat.zero_le _ }

theorem State.Inv.deepStartCmd (kind : Kind) : (deepStartCmd P kind s).Inv P := by
  rcases deepStartCmd_cases P kind s with ⟨_, he⟩ | ⟨_, _, he⟩ | ⟨hk, hw, he⟩ <;> rw [he]
  · exact h.fail rfl (Nat.zero_le _)
  · exact h.fail rfl (Nat.zero_le _)
  · exact h.parseOpened hk hw

section
variable (hp : s.dp.state = .parsing)
include hp

theorem State.Inv.parsing :
    s.dp.next ≠ .none ∧ s.dp.opqOff = 0 ∧ s.dp.opqLen = 0 ∧ s.sliceFollows ∧
      ∀ r, s.layers.getLast? = some r → dispatch P r.ind = s.dp.next :=
  (State.sequencerOk_parsing hp).1 h.sequencer

theorem State.Inv.deepFailed {code : Code} (hc : code.isError = true) : (s.deepFailed code).Inv P :=
  { h with sequencer := h.parsing hp, statusErr := hc.symm, statusLayer := (Nat.mod_le _ _).trans h.depth }

/-- The layer decoded from the current slice follows the last one (44_dispatch_deep R209). -/
theorem State.Inv.follows {a rec : LayerRec} (hP : P.Admissible) (ha : s.layers.getLast? = some a)
    (hrec : rec.DecodedFrom P s.dp.next s.dp.off.toNat s.dp.len.toNat) : a.Follows P rec := by
  obtain ⟨_, _, _, hslice, hdispatch⟩ := h.parsing hp
  obtain ⟨hoff, hlen⟩ := hslice a ha
  have hkind : dispatch P a.ind = rec.kind := (hdispatch a ha).trans hrec.kind_eq.symm
  have htrailer : rec.trailer = 0 := if_neg fun he => dispatch_ne_eth hP a.ind (hkind.trans he.1)
  have hpay := hrec.payEnd
  rw [htrailer, hoff, hlen] at hpay
  exact ⟨hkind, by rw [hrec.hdrOff, BitVec.ofNat_toNat, BitVec.setWidth_eq, hoff], hpay⟩

/-- The sequencer after a decoded layer: the layer's payload is the current slice, and either its indicator's parser is
selected or the payload is the opaque one (10_state R37, 44_dispatch_deep R205). -/
theorem State.Inv.sequencerOk_after (rec : LayerRec) :
    ((s.setLayers (s.layers ++ [rec])).setDp (sequencerAfter P s.dp rec)).sequencerOk P := by
  obtain ⟨_, hopqOff, hopqLen, _, _⟩ := h.parsing hp
  have hlast : (s.layers ++ [rec]).getLast? = some rec := List.getLast?_concat
  have hslice : ∀ r, (s.layers ++ [rec]).getLast? = some r → rec.payOff = r.payOff ∧ rec.payLen = r.payLen :=
    fun r hr => by cases hlast.symm.trans hr; exact ⟨rfl, rfl⟩
  rcases sequencerAfter_cases P s.dp rec with ⟨hd, he⟩ | ⟨hd, he⟩ <;> rw [he]
  · refine (State.sequencerOk_parsing ?_).2
      ⟨hd, hopqOff, hopqLen, hslice, fun r hr => by cases hlast.symm.trans hr; rfl⟩
    exact hp
  · exact ⟨rfl, rfl, rfl, hslice, rec, hlast, hd⟩

theorem State.Inv.deepAppend {rec : LayerRec} (hP : P.Admissible) (hn : s.layers.length < P.maxDepth)
    (hrec : rec.DecodedFrom P s.dp.next s.dp.off.toNat s.dp.len.toNat) : (deepAppend P s rec).Inv P := by
  have hfits : rec.payOff.toNat + rec.payLen.toNat ≤ P.bufSize := by
    have hslice := h.slice
    have hpay := hrec.payEnd
    omega
  have hchain : (s.layers ++ [rec]).IsChain (LayerRec.Follows P) :=
    List.isChain_append.2 ⟨h.chained, List.isChain_singleton _, fun a ha b hb => by
      obtain rfl : rec = b := Option.some.inj hb
      exact h.follows hp hP ha hrec⟩
  have hrecords : ∀ r ∈ s.layers ++ [rec], r.Valid P :=
    List.forall_mem_append.2 ⟨h.records, fun r hr => List.mem_singleton.1 hr ▸ hrec.valid⟩
  have hnew : ((s.setLayers (s.layers ++ [rec])).setDp (sequencerAfter P s.dp rec)).Inv P :=
    { h with
      depth := by simpa using hn
      records := hrecords
      chained := hchain
      slice := by rcases sequencerAfter_cases P s.dp rec with ⟨_, he⟩ | ⟨_, he⟩ <;> rw [he] <;> exact hfits
      opaqueSlice := by
        rcases sequencerAfter_cases P s.dp rec with ⟨_, he⟩ | ⟨_, he⟩ <;> rw [he]
        · exact h.opaqueSlice
        · exact hfits
      sequencer := h.sequencerOk_after hp rec }
  exact hnew.lookup _ hn

end

section
variable (hP : P.Admissible) (hmin : 22 ≤ P.ethMinFrame)
include hP hmin

/-- One `ParsingLayer` transition (44_dispatch_deep R201). -/
theorem State.Inv.deepBody {t : State} (hp : s.dp.state = .parsing) (ht : deepBody P s = some t) : t.Inv P := by
  have hmax := hP.bufSize_max
  have hslice := h.slice
  rcases deepBody_cases P s with ⟨_, he⟩ | ⟨_, _, he⟩ | ⟨code, _, hr, he⟩ | ⟨rec, hn, hr, he⟩ <;>
    rw [he] at ht <;> cases ht
  · exact h.deepFailed hp rfl
  · obtain ⟨_, _, ha⟩ := Option.map_eq_some_iff.1 ((runParser_answer _ _ _ _ _).symm.trans hr)
    exact h.deepFailed hp (State.firstFailure_isError (answerOf_eq_error.1 ha))
  · obtain ⟨_, hrec, ha⟩ := Option.map_eq_some_iff.1 ((runParser_answer _ _ _ _ _).symm.trans hr)
    obtain ⟨hf, rfl⟩ := answerOf_eq_ok.1 ha
    exact h.deepAppend hp hP hn (State.layerRecord_decodedFrom hmin (by omega) hslice hf hrec)

end

end

section
variable {P : Params} {s t : State} (hP : P.Admissible) (hmin : 22 ≤ P.ethMinFrame) (h : s.Inv P)
include hP hmin h

theorem State.Inv.deepLoop (rounds : Nat) (ht : deepLoop P rounds s = some t) : t.Inv P := by
  induction rounds generalizing s with
  | zero => cases ht; exact h
  | succ rounds ih =>
    by_cases hp : s.dp.state = .parsing
    · rw [deepLoop_parsing rounds hp] at ht
      obtain ⟨u, hu, ht⟩ := Option.bind_eq_some_iff.1 ht
      exact ih (h.deepBody hP hmin hp hu) ht
    · rw [deepLoop_terminal _ hp] at ht
      cases ht; exact h

omit hP hmin in
theorem State.Inv.deepCommand {work : Option State} (hwork : s.dp.state = .parsing → work = some t → t.Inv P)
    (ht : deepCommand P s work = some t) : t.Inv P := by
  rcases deepCommand_cases P s work with ⟨_, he⟩ | ⟨_, _, he⟩ | ⟨hp, _, he⟩ <;> rw [he] at ht
  · cases ht; exact h.fail rfl (Nat.zero_le _)
  · cases ht; exact h.fail rfl (Nat.zero_le _)
  · exact hwork hp ht

end

/-! ### The step -/

theorem exec_keeps_inv {i : Instr} {s t : State} (h : s.Inv build) (ht : exec i s = .next t) : t.Inv build := by
  have hP := build_admissible
  have hmin : 22 ≤ build.ethMinFrame := by decide
  cases i with
  | nop => cases ht; exact h.succeed
  | curOpen => cases ht; exact h.curOpenCmd
  | curRd8 => cases ht; exact h.curReadCmd 8
  | curRd16 => cases ht; exact h.curReadCmd 16
  | curRd32 => cases ht; exact h.curReadCmd 32
  | curRdb => cases ht; exact h.curRdbCmd
  | curPeek => cases ht; exact h.curPeekCmd
  | curRem => cases ht; exact h.curRemCmd
  | curSkip => cases ht; exact h.curSkipCmd
  | csumIp4 => cases ht; exact h.csumCommand _ _
  | csumXport x => cases ht; exact h.csumXportCmd x
  | parseEth =>
    cases ht
    exact h.parseCommand hP hmin (ph := .absent) (fun _ _ => rfl) fun _ _ => parseEth_answer _ _ _ _ _
  | parseVlan =>
    cases ht
    exact h.parseCommand hP hmin (ph := .absent) (fun _ _ => rfl) fun _ _ => parseVlan_answer build _ _ _ _
  | parseIp4 =>
    cases ht
    exact h.parseCommand hP hmin (ph := .absent) (fun _ _ => rfl) fun _ _ => parseIp4_answer build _ _ _ _
  | parseIp6 =>
    cases ht
    exact h.parseCommand hP hmin (ph := .absent) (fun _ _ => rfl) fun _ _ => parseIp6_answer build _ _ _ _
  | parseTcp =>
    cases ht
    exact h.transportCommand hP hmin (fun _ _ _ => rfl) fun _ _ _ => parseTcp_answer build _ _ _ _
  | parseUdp =>
    cases ht
    exact h.transportCommand hP hmin (fun _ _ _ => rfl) fun _ _ _ => parseUdp_answer build _ _ _ _
  | parseIcmp =>
    cases ht
    exact h.transportCommand hP hmin (fun _ _ _ => rfl) fun _ _ _ => parseIcmp_answer build _ _ _ _
  | dispEtype => cases ht; exact h.dispatchResult _
  | dispIpproto => cases ht; exact h.dispatchResult _
  | deepStart kind => cases ht; exact h.deepStartCmd kind
  | deepStep => exact h.deepCommand (h.deepBody hP hmin) (deepOutcome_eq_next.1 ht)
  | deepRun => exact h.deepCommand (fun _ => h.deepLoop hP hmin _) (deepOutcome_eq_next.1 ht)
  | clear => cases ht; exact h.clearCmd

theorem hostAccess_keeps_inv {P : Params} {op : HostOp} {s t : State} (h : s.Inv P)
    (ht : hostAccess P op s = .next t) : t.Inv P := by
  rcases hostAccess_cases P op s with ⟨d, he⟩ | he | ⟨o, he⟩ | ⟨a, bytes, ha, he⟩ | he | he <;>
    rw [he] at ht <;> cases ht
  · exact h.setReadData d
  · exact h
  · exact h.setOpr o
  · exact h.storeBytes ha
  · exact platformReset_inv P s

/-- Settles O16. -/
theorem resetMeetsTheInvariant : Obligations.ResetMeetsTheInvariant := State.reset_inv build

/-- Settles O15: a step is nothing, a command, an illegal word or a host access, and each keeps the invariant. -/
theorem stepKeepsTheInvariant : Obligations.StepKeepsTheInvariant := by
  intro s t h ht
  rcases step_cases s with ⟨_, he⟩ | ⟨_, i, rest, _, _, he⟩ | ⟨_, _, rest, _, _, he⟩ | ⟨op, rest, _, _, he⟩ <;>
    rw [he] at ht
  · cases ht; exact h
  · exact exec_keeps_inv (h.setHostOps rest) ht
  · cases ht; exact (h.setHostOps rest).fail rfl (Nat.zero_le _)
  · exact hostAccess_keeps_inv (h.setHostOps rest) ht

end Sys2Proof.Machine
end

section
/-! The frame of every command: each register is written by its own commands only (10_state R31 to R41). -/

namespace Sys2Proof.Machine

/-- From `s` to `t` no register changed that `i` does not write (10_state R32 to R38, R41). -/
structure Keeps (i : Instr) (s t : State) : Prop where
  cursor : i.writesCursor = false → t.cur = s.cur
  rval : i.writesRval = false → t.res.rval = s.res.rval
  slice : i.writesSlice = false → t.res.roff = s.res.roff ∧ t.res.rlen = s.res.rlen
  csum : i.writesCsum = false → t.res.computed = s.res.computed ∧ t.res.stored = s.res.stored
  next : i.writesNext = false → t.res.next = s.res.next
  layers : i.writesLayers = false → t.layers = s.layers ∧ t.dp.state = s.dp.state
  slices : i.writesSlices = false →
    t.dp.next = s.dp.next ∧ t.dp.off = s.dp.off ∧ t.dp.len = s.dp.len ∧ t.dp.opqOff = s.dp.opqOff ∧
      t.dp.opqLen = s.dp.opqLen

/-- The frame of a command that is no step of a deep parse: what `Keeps` says, and `STATUS.LAYER` 0 (10_state R31). -/
structure Frame (i : Instr) (s t : State) : Prop extends Keeps i s t where
  statusLayer : t.status.layer = 0

theorem Keeps.refl (i : Instr) (s : State) : Keeps i s s :=
  ⟨fun _ => rfl, fun _ => rfl, fun _ => ⟨rfl, rfl⟩, fun _ => ⟨rfl, rfl⟩, fun _ => rfl, fun _ => ⟨rfl, rfl⟩,
    fun _ => ⟨rfl, rfl, rfl, rfl, rfl⟩⟩

/-! ### Register updates: each is allowed to the commands that write the register -/

section
variable {i : Instr} {s t : State} (h : Keeps i s t)
include h

theorem Keeps.setStatus (st : Status) : Keeps i s (t.setStatus st) := { h with }

theorem Keeps.succeed : Frame i s t.succeed := { h with statusLayer := rfl }

theorem Keeps.fail (code : Code) : Frame i s (t.fail code 0) := { h with statusLayer := rfl }

theorem Keeps.setCur (hw : i.writesCursor = true) (c : CursorRegs) : Keeps i s (t.setCur c) :=
  { h with cursor := fun hn => Bool.noConfusion (hw.symm.trans hn) }

theorem Keeps.setRval (hw : i.writesRval = true) (v : Word) : Keeps i s (t.setRval v) :=
  { h with rval := fun hn => Bool.noConfusion (hw.symm.trans hn) }

theorem Keeps.setSlice (hw : i.writesSlice = true) (off len : Word) : Keeps i s (t.setSlice off len) :=
  { h with slice := fun hn => Bool.noConfusion (hw.symm.trans hn) }

theorem Keeps.setVerdict (hr : i.writesRval = true) (hc : i.writesCsum = true) (v : Verdict) :
    Frame i s (t.setVerdict v) :=
  { h with rval := fun hn => Bool.noConfusion (hr.symm.trans hn)
           csum := fun hn => Bool.noConfusion (hc.symm.trans hn)
           statusLayer := rfl }

theorem Keeps.dispatchResult (hw : i.writesNext = true) (k : Kind) : Frame i s (dispatchResult t k) :=
  { h with next := fun hn => Bool.noConfusion (hw.symm.trans hn), statusLayer := rfl }

theorem Keeps.setLayers (hw : i.writesLayers = true) (ls : List LayerRec) : Keeps i s (t.setLayers ls) :=
  { h with layers := fun hn => Bool.noConfusion (hw.symm.trans hn) }

theorem Keeps.setDpState (hw : i.writesLayers = true) (st : DpState) :
    Keeps i s (t.setDp { t.dp with state := st }) :=
  { h with layers := fun hn => Bool.noConfusion (hw.symm.trans hn) }

theorem Keeps.setDp (hl : i.writesLayers = true) (hs : i.writesSlices = true) (d : Sequencer) :
    Keeps i s (t.setDp d) :=
  { h with layers := fun hn => Bool.noConfusion (hl.symm.trans hn)
           slices := fun hn => Bool.noConfusion (hs.symm.trans hn) }

/-! ### A step of a deep parse -/

theorem Keeps.deepBody {P : Params} {u : State} (hl : i.writesLayers = true) (hs : i.writesSlices = true)
    (hu : deepBody P t = some u) : Keeps i s u := by
  rcases deepBody_cases P t with ⟨_, he⟩ | ⟨_, _, he⟩ | ⟨code, _, _, he⟩ | ⟨rec, _, _, he⟩ <;>
    rw [he] at hu <;> cases hu
  · exact (h.setDpState hl .failed).setStatus _
  · exact (h.setDpState hl .failed).setStatus _
  · exact ((h.setLayers hl _).setDp hl hs _).setStatus _

end

theorem Keeps.deepLoop {P : Params} {i : Instr} {s t u : State} (hl : i.writesLayers = true)
    (hs : i.writesSlices = true) (rounds : Nat) (h : Keeps i s t) (hu : deepLoop P rounds t = some u) :
    Keeps i s u := by
  induction rounds generalizing t with
  | zero => cases hu; exact h
  | succ rounds ih =>
    by_cases hp : t.dp.state = .parsing
    · rw [deepLoop_parsing rounds hp] at hu
      obtain ⟨v, hv, hu⟩ := Option.bind_eq_some_iff.1 hu
      exact ih (h.deepBody hl hs hv) hu
    · rw [deepLoop_terminal _ hp] at hu
      cases hu; exact h

/-! ### The shared operations of the commands -/

section
variable {P : Params} {i : Instr} {s : State}

/-- A failure that changes nothing but `STATUS` is inside every frame (60_exceptions R236). -/
theorem fail_frame (code : Code) : Frame i s (s.fail code 0) := (Keeps.refl i s).fail code

theorem cursorCommand_frame {n : Nat} {effect : State} (he : Frame i s effect) :
    Frame i s (cursorCommand P s n effect) := by
  rcases cursorCommand_cases P s n effect with ⟨_, hc⟩ | ⟨_, _, hc⟩ | ⟨_, _, hc⟩ <;> rw [hc]
  · exact fail_frame _
  · exact fail_frame _
  · exact he

theorem curOpenCmd_frame (hw : i.writesCursor = true) : Frame i s (curOpenCmd P s) := by
  rcases curOpenCmd_cases P s with ⟨_, hc⟩ | ⟨_, hc⟩ <;> rw [hc]
  · exact fail_frame _
  · exact ((Keeps.refl i s).setCur hw _).succeed

theorem curReadCmd_frame (w : Nat) (hc : i.writesCursor = true) (hr : i.writesRval = true) :
    Frame i s (curReadCmd P w s) :=
  cursorCommand_frame (((Keeps.refl i s).setRval hr _).setCur hc _).succeed

theorem curSkipCmd_frame (hw : i.writesCursor = true) : Frame i s (curSkipCmd s) := by
  rcases curSkipCmd_cases s with ⟨_, hc⟩ | ⟨_, hc⟩ <;> rw [hc]
  · exact fail_frame _
  · exact ((Keeps.refl i s).setCur hw _).succeed

theorem csumCommand_frame (hr : i.writesRval = true) (hc : i.writesCsum = true) (p : Nat)
    (verify : Nat → Nat → Verdict) : Frame i s (csumCommand P s p verify) := by
  rcases csumCommand_cases P s p verify with ⟨_, he⟩ | ⟨_, _, he⟩ | ⟨_, _, he⟩ <;> rw [he]
  · exact fail_frame _
  · exact fail_frame _
  · exact (Keeps.refl i s).setVerdict hr hc _

theorem csumXportCmd_frame (hr : i.writesRval = true) (hc : i.writesCsum = true) (x : Xport) :
    Frame i s (csumXportCmd P x s) := by
  rcases csumXportCmd_cases P x s with ⟨_, he⟩ | ⟨_, _, he⟩ <;> rw [he]
  · exact fail_frame _
  · exact csumCommand_frame hr hc _ _

theorem shallowResult_frame (hw : i.writesLayers = true) (r : Except Code LayerRec) :
    Frame i s (shallowResult s r) := by
  have hidle := (Keeps.refl i s).setDpState hw .idle
  cases r with
  | ok rec => exact (hidle.setLayers hw _).succeed
  | error code => exact (hidle.setLayers hw _).fail code

theorem parseCommand_frame (hw : i.writesLayers = true) (parser : Nat → Nat → Except Code LayerRec) :
    Frame i s (parseCommand P s parser) := by
  rcases parseCommand_cases P s parser with ⟨_, he⟩ | ⟨_, he⟩ <;> rw [he]
  · exact fail_frame _
  · exact shallowResult_frame hw _

theorem transportCommand_frame (hw : i.writesLayers = true)
    (parser : PseudoHeader → Nat → Nat → Except Code LayerRec) : Frame i s (transportCommand P s parser) := by
  rcases transportCommand_cases P s parser with ⟨_, he⟩ | ⟨_, _, he⟩ <;> rw [he]
  · exact fail_frame _
  · exact parseCommand_frame hw _

theorem deepStartCmd_frame (hl : i.writesLayers = true) (hs : i.writesSlices = true) (kind : Kind) :
    Frame i s (deepStartCmd P kind s) := by
  rcases deepStartCmd_cases P kind s with ⟨_, he⟩ | ⟨_, _, he⟩ | ⟨_, _, he⟩ <;> rw [he]
  · exact fail_frame _
  · exact fail_frame _
  · exact (((Keeps.refl i s).setLayers hl _).setDp hl hs _).succeed

theorem deepCommand_keeps {work : Option State} {t : State} (hwork : work = some t → Keeps i s t)
    (ht : deepCommand P s work = some t) : Keeps i s t := by
  rcases deepCommand_cases P s work with ⟨_, he⟩ | ⟨_, _, he⟩ | ⟨_, _, he⟩ <;> rw [he] at ht
  · cases ht; exact (fail_frame _).toKeeps
  · cases ht; exact (fail_frame _).toKeeps
  · exact hwork ht

end

/-- `CLEAR` writes every engine register (45_system R222). -/
theorem clearCmd_frame (s : State) : Frame .clear s (clearCmd s) where
  cursor := fun h => by cases h
  rval := fun h => by cases h
  slice := fun h => by cases h
  csum := fun h => by cases h
  next := fun h => by cases h
  layers := fun h => by cases h
  slices := fun h => by cases h
  statusLayer := rfl

/-! ### Every command -/

theorem exec_frame {i : Instr} {s t : State} (hstep : i ≠ .deepStep) (hrun : i ≠ .deepRun)
    (ht : exec i s = .next t) : Frame i s t := by
  cases i with
  | nop => cases ht; exact (Keeps.refl _ s).succeed
  | curOpen => cases ht; exact curOpenCmd_frame rfl
  | curRd8 => cases ht; exact curReadCmd_frame 8 rfl rfl
  | curRd16 => cases ht; exact curReadCmd_frame 16 rfl rfl
  | curRd32 => cases ht; exact curReadCmd_frame 32 rfl rfl
  | curRdb => cases ht; exact cursorCommand_frame (((Keeps.refl _ s).setSlice rfl _ _).setCur rfl _).succeed
  | curPeek => cases ht; exact cursorCommand_frame ((Keeps.refl _ s).setSlice rfl _ _).succeed
  | curRem => cases ht; exact ((Keeps.refl _ s).setRval rfl _).succeed
  | curSkip => cases ht; exact curSkipCmd_frame rfl
  | csumIp4 => cases ht; exact csumCommand_frame rfl rfl _ _
  | csumXport x => cases ht; exact csumXportCmd_frame rfl rfl x
  | parseEth => cases ht; exact parseCommand_frame rfl _
  | parseVlan => cases ht; exact parseCommand_frame rfl _
  | parseIp4 => cases ht; exact parseCommand_frame rfl _
  | parseIp6 => cases ht; exact parseCommand_frame rfl _
  | parseTcp => cases ht; exact transportCommand_frame rfl _
  | parseUdp => cases ht; exact transportCommand_frame rfl _
  | parseIcmp => cases ht; exact transportCommand_frame rfl _
  | dispEtype => cases ht; exact (Keeps.refl _ s).dispatchResult rfl _
  | dispIpproto => cases ht; exact (Keeps.refl _ s).dispatchResult rfl _
  | deepStart kind => cases ht; exact deepStartCmd_frame rfl rfl kind
  | deepStep => exact absurd rfl hstep
  | deepRun => exact absurd rfl hrun
  | clear => cases ht; exact clearCmd_frame s

theorem exec_keeps {i : Instr} {s t : State} (ht : exec i s = .next t) : Keeps i s t := by
  by_cases hstep : i = .deepStep
  · subst hstep
    exact deepCommand_keeps ((Keeps.refl _ s).deepBody rfl rfl) (deepOutcome_eq_next.1 ht)
  by_cases hrun : i = .deepRun
  · subst hrun
    exact deepCommand_keeps ((Keeps.refl _ s).deepLoop rfl rfl _) (deepOutcome_eq_next.1 ht)
  exact (exec_frame hstep hrun ht).toKeeps

/-- Settles O20. -/
theorem registersWrittenOnlyByTheirCommands : Obligations.RegistersWrittenOnlyByTheirCommands := by
  intro i s t ht
  obtain ⟨hcursor, hrval, hslice, hcsum, hnext, hlayers, hslices⟩ := exec_keeps ht
  exact ⟨hcursor, hrval, hslice, hcsum, hnext, hlayers, hslices,
    fun hstep hrun => (exec_frame hstep hrun ht).statusLayer⟩

/-! ### The reserved pseudo-header -/

section
variable {P : Params} {s : State} (h : s.opr.phKind = 3)
include h

theorem csumXportCmd_reserved (x : Xport) : csumXportCmd P x s = s.onlyStatus .illegalCommand := by
  rw [csumXportCmd, State.pseudoHeader_eq_none.2 h, State.fail_eq_onlyStatus]

theorem transportCommand_reserved (parser : PseudoHeader → Nat → Nat → Except Code LayerRec) :
    transportCommand P s parser = s.onlyStatus .illegalCommand := by
  rw [transportCommand, State.pseudoHeader_eq_none.2 h, State.fail_eq_onlyStatus]

end

/-- Settles O24: the four commands that read the pseudo-header take it before they look at the window. -/
theorem reservedPseudoHeaderIsIllegal : Obligations.ReservedPseudoHeaderIsIllegal := by
  intro i s hi hk
  cases i with
  | csumXport x => exact congrArg Host.Outcome.next (csumXportCmd_reserved hk x)
  | parseTcp => exact congrArg Host.Outcome.next (transportCommand_reserved hk _)
  | parseUdp => exact congrArg Host.Outcome.next (transportCommand_reserved hk _)
  | parseIcmp => exact congrArg Host.Outcome.next (transportCommand_reserved hk _)
  | _ => cases hi

end Sys2Proof.Machine
end

section
/-! Host accesses below the buffer window: what a register or a slot reads, and what a write does
(10_state R22, R23, R39 to R52, 20_memory R66, R68). -/

namespace Sys2Proof.Machine

/-! ### Fields inside words -/

/-- A field zero-extended is the field behind zeros. -/
theorem setWidth_eq_zero_append {k n : Nat} (v : BitVec n) : v.setWidth (k + n) = (0 : BitVec k) ++ v := by
  have hlt : v.toNat < 2 ^ (k + n) := v.isLt.trans_le (Nat.pow_le_pow_right (by decide) (Nat.le_add_left n k))
  apply BitVec.eq_of_toNat_eq
  rw [BitVec.toNat_append, BitVec.toNat_setWidth, Nat.mod_eq_of_lt hlt]
  simp

/-- The word written to `CFG`, without its zero field (10_state R23). -/
theorem cfg_masked (d : Word) :
    (0 : BitVec 30) ++ BitVec.ofBool (d.getLsbD 1) ++ BitVec.ofBool (d.getLsbD 0) = d &&& 0x00000003 := by
  apply BitVec.eq_of_getLsbD_eq
  intro i hi
  rw [BitVec.getLsbD_append, BitVec.getLsbD_append, BitVec.getLsbD_ofBool, BitVec.getLsbD_ofBool, BitVec.getLsbD_and]
  interval_cases i <;> simp

/-- The word written to `PID`, without its zero half (10_state R23). -/
theorem pid_masked (d : Word) : (d.extractLsb' 0 16).setWidth 32 = d &&& 0x0000FFFF := by
  apply BitVec.eq_of_toNat_eq
  rw [BitVec.toNat_setWidth, BitVec.extractLsb'_toNat, BitVec.toNat_and,
    show BitVec.toNat (0x0000FFFF : Word) = 2 ^ 16 - 1 from rfl, Nat.and_two_pow_sub_one_eq_mod]
  exact Nat.mod_eq_of_lt ((Nat.mod_lt _ (by decide)).trans (by decide))

/-- The word written to `PH_CTL`, without its zero fields (10_state R23). -/
theorem phCtl_masked (d : Word) :
    (0 : Half) ++ d.extractLsb' 8 8 ++ (0 : BitVec 6) ++ d.extractLsb' 0 2 = d &&& 0x0000FF03 := by
  apply BitVec.eq_of_getLsbD_eq
  intro i hi
  rw [BitVec.getLsbD_append, BitVec.getLsbD_append, BitVec.getLsbD_append]
  interval_cases i <;> simp

/-- A register without zero fields keeps the whole word. -/
theorem word_masked (d : Word) : d = d &&& 0xFFFFFFFF := BitVec.and_allOnes.symm

/-! ### Accesses to the register block -/

section
variable {P : Params} {s : State} {addr : BitVec 17} (h : addr.toNat < 0x1000)
include h

theorem readValue_register (ha : addr.toNat % 4 = 0) : readValue P s .byte4 addr = readRegister P s addr.toNat := by
  rw [readValue, if_pos (accessReaches_register h ha), regionOf_register h]

theorem hostWrite_register (ha : addr.toNat % 4 = 0) (d : Word) :
    hostWrite P s .byte4 addr d = s.setOpr (writeOperand s.opr addr.toNat d) := by
  rw [hostWrite, if_pos (accessReaches_register h ha), regionOf_register h]

end

section
variable {P : Params} {size : AccessSize} {addr : BitVec 17} (h : accessReaches P size addr = false) (s : State)
include h

theorem readValue_unreached : readValue P s size addr = 0 := by simp [readValue, h]

theorem hostWrite_unreached (d : Word) : hostWrite P s size addr d = s := by simp [hostWrite, h]

end

/-- A read depends on the operand registers in the register block only. -/
theorem readValue_setOpr_above {P : Params} {s : State} {size : AccessSize} {addr : BitVec 17} (o : Operands)
    (h : 0x1000 ≤ addr.toNat) : readValue P (s.setOpr o) size addr = readValue P s size addr := by
  unfold readValue
  rcases regionOf_cases P addr with ⟨_, _⟩ | ⟨_, _, _, hr⟩ | ⟨_, _, _, hr⟩ | ⟨_, hr⟩
  · omega
  all_goals rw [hr] <;> rfl

theorem readValue_setHostOps (P : Params) (s : State) (ops : List HostOp) (size : AccessSize) (addr : BitVec 17) :
    readValue P (s.setHostOps ops) size addr = readValue P s size addr := by
  unfold readValue
  rcases regionOf_cases P addr with ⟨_, hr⟩ | ⟨_, _, _, hr⟩ | ⟨_, _, _, hr⟩ | ⟨_, hr⟩ <;> rw [hr] <;> rfl

/-- A register whose every aligned read is 0 reads 0 at its misaligned addresses too (20_memory R66). -/
theorem readValue_eq_zero {P : Params} {s : State} {addr : BitVec 17} (h : addr.toNat < 0x1000)
    (hz : readRegister P s addr.toNat = 0) : readValue P s .byte4 addr = 0 := by
  by_cases ha : addr.toNat % 4 = 0
  · rw [readValue_register h ha, hz]
  · exact readValue_unreached (accessReaches_below (by omega) (.inr ha)) s

/-! ### Constants, reserved addresses and reset values -/

theorem readRegister_reserved {P : Params} {s : State} {a : Nat} (h : 0x088 ≤ a) : readRegister P s a = 0 := by
  unfold readRegister
  split <;> try rfl
  all_goals omega

theorem readRegister_reset {P : Params} {a : Nat} (h : a < 0x080) : readRegister P State.reset a = 0 := by
  unfold readRegister
  split <;> try rfl
  all_goals omega

/-- `PARAMS` as a number: `MAX_DEPTH` below `BUF_SIZE` (10_state R39). -/
theorem paramsWord_toNat {P : Params} (hP : P.Admissible) :
    (paramsWord P).toNat = P.bufSize * 2 ^ 8 + P.maxDepth := by
  have hbuf := hP.bufSize_max
  have hdepth := hP.maxDepth_max
  rw [paramsWord, BitVec.toNat_append, BitVec.toNat_append, BitVec.toNat_ofNat, BitVec.toNat_ofNat,
    Nat.mod_eq_of_lt (show P.bufSize < 2 ^ 17 by omega), Nat.mod_eq_of_lt (show P.maxDepth < 2 ^ 8 by omega),
    ← Nat.shiftLeft_add_eq_or_of_lt (show P.maxDepth < 2 ^ 8 by omega), Nat.shiftLeft_eq]
  simp

/-- The end of the layer file up to the buffer window is reserved (20_memory R68). -/
theorem accessReaches_reserved {P : Params} {size : AccessSize} {addr : BitVec 17}
    (h : 0x1000 + 0x80 * P.maxDepth ≤ addr.toNat) (hlt : addr.toNat < 0x10000) :
    accessReaches P size addr = false := by
  rcases regionOf_cases P addr with ⟨_, _⟩ | ⟨_, _, _, _⟩ | ⟨_, _, _, hr⟩ | ⟨_, _⟩
  · omega
  · omega
  · rw [accessReaches, hr]
  · omega

/-! ### Writes -/

/-- The operand registers' addresses in the register block. -/
def operandAddrs : List Nat := operandMasks.map fun p => p.1.toNat

theorem notMem_operandAddrs {addr : BitVec 17} (h : ∀ mask : Word, (addr, mask) ∉ operandMasks) :
    addr.toNat ∉ operandAddrs := by
  intro hmem
  obtain ⟨⟨a, mask⟩, hp, ha⟩ := List.mem_map.1 hmem
  exact h mask (BitVec.eq_of_toNat_eq ha ▸ hp)

theorem mem_operandAddrs_of_mask {addr : BitVec 17} {mask : Word} (h : (addr, mask) ∈ operandMasks) :
    addr.toNat ∈ operandAddrs :=
  List.mem_map.2 ⟨_, h, rfl⟩

theorem writeOperand_of_notMem {o : Operands} {a : Nat} {d : Word} (h : a ∉ operandAddrs) :
    writeOperand o a d = o := by
  unfold writeOperand
  split <;> try rfl
  all_goals exact absurd (by decide) h

/-- Below the buffer window a write that names no operand register is ignored (10_state R22, R40). -/
theorem hostWrite_readOnly {P : Params} {s : State} {addr : BitVec 17} (d : Word) (h : addr.toNat < 0x10000)
    (hno : addr.toNat ∉ operandAddrs) : hostWrite P s .byte4 addr d = s := by
  unfold hostWrite
  rcases regionOf_cases P addr with ⟨_, hr⟩ | ⟨_, _, _, hr⟩ | ⟨_, _, _, hr⟩ | ⟨_, _⟩
  · rw [hr]; dsimp only; rw [writeOperand_of_notMem hno]; exact ite_self s
  · rw [hr]; exact ite_self s
  · rw [hr]; exact ite_self s
  · omega

theorem mem_operandAddrs {a : Nat} (h : a ∈ operandAddrs) : 0 < a ∧ a < 0x080 ∧ a % 4 = 0 := by
  have hall : ∀ a ∈ operandAddrs, 0 < a ∧ a < 0x080 ∧ a % 4 = 0 := by decide
  exact hall a h

/-- An operand register holds the word written to it, its zero fields 0 (10_state R23). -/
theorem readRegister_writeOperand_self {P : Params} {s : State} {addr : BitVec 17} {mask : Word} (d : Word)
    (h : (addr, mask) ∈ operandMasks) :
    readRegister P (s.setOpr (writeOperand s.opr addr.toNat d)) addr.toNat = d &&& mask := by
  have hall : ∀ p ∈ operandMasks,
      readRegister P (s.setOpr (writeOperand s.opr p.1.toNat d)) p.1.toNat = d &&& p.2 := by
    simp only [operandMasks, List.forall_mem_cons]
    have hw := word_masked d
    exact ⟨cfg_masked d, hw, hw, hw, hw, pid_masked d, phCtl_masked d, hw, hw, hw, hw, hw, hw, hw, hw, hw,
      fun _ hp => by cases hp⟩
  exact hall _ h

/-- Writing one register leaves what every other one reads (10_state R22). -/
theorem readRegister_writeOperand_ne {P : Params} {s : State} {a b : Nat} (d : Word) (h : b ≠ a) :
    readRegister P (s.setOpr (writeOperand s.opr a d)) b = readRegister P s b := by
  unfold writeOperand
  split <;> unfold readRegister <;> split <;> try rfl
  all_goals exact absurd rfl h

theorem readValue_writeOperand_ne {P : Params} {s : State} {addr other : BitVec 17} (d : Word) (h : other ≠ addr) :
    readValue P (s.setOpr (writeOperand s.opr addr.toNat d)) .byte4 other = readValue P s .byte4 other := by
  by_cases hlt : other.toNat < 0x1000
  · by_cases ha : other.toNat % 4 = 0
    · rw [readValue_register hlt ha, readValue_register hlt ha,
        readRegister_writeOperand_ne d fun he => h (BitVec.eq_of_toNat_eq he)]
    · have hun : accessReaches P .byte4 other = false := accessReaches_below (by omega) (.inr ha)
      rw [readValue_unreached hun, readValue_unreached hun]
  · exact readValue_setOpr_above _ (not_lt.1 hlt)

/-! ### The step and the registers -/

/-- Settles O4. -/
theorem stepRunsTheWrittenCommand : Obligations.StepRunsTheWrittenCommand := by
  intro s rest
  refine ⟨fun w i hops hd => ?_, fun w hops => step_command hops, fun size addr d hops hc => step_write hops hc,
    fun size addr hops => ?_, fun off bytes t hops ht => ?_, fun hops => ?_⟩
  · rw [step_command hops, runCommand, hd, State.setHostOps_eq]
  · rw [step_read hops, readValue_setHostOps]
    rfl
  · simp only [step, hops, HostOp.command, hostAccess, State.setHostOps_eq, ht]
  · rw [step, hops]

/-- A table of registers read through a step: the addresses are aligned ones of the register block, and each register
there reads its word. -/
theorem step_read_table {s : State} {table : List (BitVec 17 × Word)} {addr : BitVec 17} {v : Word}
    {rest : List HostOp} (haddr : ∀ a ∈ table.map fun p => p.1.toNat, a < 0x1000 ∧ a % 4 = 0)
    (hread : ∀ p ∈ table, readRegister build s p.1.toNat = p.2) (hmem : (addr, v) ∈ table)
    (hops : s.hostOps = .read .byte4 addr :: rest) :
    step s = .next { s with hostOps := rest, readData := v, reads := s.reads + 1 } := by
  obtain ⟨hlt, ha⟩ := haddr _ (List.mem_map.2 ⟨_, hmem, rfl⟩)
  rw [step_read hops, readValue_setHostOps, readValue_register hlt ha, hread _ hmem]
  rfl

/-- Settles O6: the numbers of the codes, then the table of registers; `PID`, `NEXT` and `NLAYERS` are zero-extended. -/
theorem registerReadsReturnTheirFields : Obligations.RegisterReadsReturnTheirFields := by
  refine ⟨rfl, rfl, rfl, fun s addr v rest hmem hops => step_read_table ?_ ?_ hmem hops⟩
  · simp only [List.map_cons, List.map_nil]
    decide
  · have hpid : s.opr.pidWord = (0 : Half) ++ s.opr.pid := setWidth_eq_zero_append _
    have hnext : s.res.nextWord = (0 : BitVec 28) ++ s.res.next.code := setWidth_eq_zero_append _
    have hnlayers : (BitVec.ofNat 8 s.layers.length).setWidth 32 = (0 : BitVec 24) ++ BitVec.ofNat 8 s.layers.length :=
      setWidth_eq_zero_append _
    simp only [List.forall_mem_cons]
    exact ⟨rfl, rfl, rfl, rfl, rfl, rfl, rfl, hpid, rfl, rfl, rfl, rfl, rfl, rfl, rfl, rfl, rfl, rfl, rfl, rfl, rfl,
      rfl, rfl, rfl, rfl, hnext, rfl, rfl, rfl, hnlayers, rfl, rfl, fun _ hp => by cases hp⟩

/-- Settles O7: an operand register resets to 0; a written one reads its word back, every other address as before. -/
theorem operandWritesReadBack : Obligations.OperandWritesReadBack := by
  intro addr mask hmem
  obtain ⟨hpos, hlt, ha⟩ := mem_operandAddrs (mem_operandAddrs_of_mask hmem)
  have hne : addr ≠ 0 := fun he => absurd (congrArg BitVec.toNat he) hpos.ne'
  have hreg : addr.toNat < 0x1000 := by omega
  refine ⟨readValue_eq_zero hreg (readRegister_reset hlt), fun s d rest hops => ?_⟩
  have hstep : step s = .next ((s.setHostOps rest).setOpr (writeOperand s.opr addr.toNat d)) := by
    rw [step_write hops (.inr hne), hostWrite_register hreg ha]
    rfl
  refine ⟨_, hstep, rfl, ?_, fun other hother => ?_⟩
  · rw [readValue_register hreg ha]
    exact readRegister_writeOperand_self (s := s.setHostOps rest) d hmem
  · rw [← readValue_setHostOps build s rest]
    exact readValue_writeOperand_ne (s := s.setHostOps rest) d hother

/-- Settles O8. -/
theorem readOnlySpaceIgnoresWrites : Obligations.ReadOnlySpaceIgnoresWrites := by
  intro s addr d rest hlt hne hno hops
  rw [step_write hops (.inr hne), hostWrite_readOnly d hlt (notMem_operandAddrs hno), State.setHostOps_eq]

/-- Settles O9. -/
theorem constantAndReservedRegisters : Obligations.ConstantAndReservedRegisters := by
  intro P s hP
  have hbuf := hP.bufSize_max
  have hdepth := hP.maxDepth_max
  have hparams : readValue P s .byte4 0x084 = paramsWord P := readValue_register (by decide) (by decide)
  have hnum := paramsWord_toNat hP
  refine ⟨readValue_register (by decide) (by decide), ?_, ?_, ?_, fun addr hlo hhi => ?_, fun addr d hlo hhi => ?_,
    fun addr d hlo hhi => ?_⟩
  · rw [hparams, BitVec.extractLsb'_toNat, hnum, Nat.shiftRight_zero]
    omega
  · rw [hparams, BitVec.extractLsb'_toNat, hnum, Nat.shiftRight_eq_div_pow]
    omega
  · rw [hparams]
    apply BitVec.eq_of_toNat_eq
    rw [BitVec.extractLsb'_toNat, hnum, Nat.shiftRight_eq_div_pow]
    show _ = 0
    omega
  · exact readValue_eq_zero (by omega) (readRegister_reserved hlo)
  · exact hostWrite_readOnly d (by omega) fun hmem => absurd (mem_operandAddrs hmem).2.1 (by omega)
  · have hun : accessReaches P .byte4 addr = false := accessReaches_reserved hlo (by omega)
    exact ⟨readValue_unreached hun s, hostWrite_unreached hun s d⟩

/-- Settles O13. -/
theorem resetReadsZero : Obligations.ResetReadsZero :=
  ⟨fun addr h => readValue_eq_zero (by omega) (readRegister_reset h), readValue_register (by decide) (by decide),
    readValue_register (by decide) (by decide), rfl, rfl, rfl, rfl, rfl, rfl, rfl, rfl, rfl, rfl, fun _ => rfl⟩

end Sys2Proof.Machine
end

section
/-! The layer file: the address of each word of a slot, and the words of a record (10_state R40 to R52). -/

namespace Sys2Proof.Machine

/-! ### The address of a word -/

/-- Word `w` of slot `i` stands at `0x1000 + 0x80 i + 4 w` (10_state R40). -/
theorem regionOf_layer {P : Params} {addr : BitVec 17} {i w : Nat} (ha : addr.toNat = 0x1000 + 0x80 * i + 4 * w)
    (hlt : addr.toNat < 0x10000) (hi : i < P.maxDepth) (hw : w < 32) : regionOf P addr = .layer i w := by
  have hslot : (addr.toNat - 0x1000) / 0x80 = i := by omega
  have hword : (addr.toNat - 0x1000) % 0x80 / 4 = w := by omega
  rcases regionOf_cases P addr with ⟨_, _⟩ | ⟨_, _, _, hr⟩ | ⟨_, _, _, _⟩ | ⟨_, _⟩
  · omega
  · rw [hr, hslot, hword]
  · omega
  · omega

theorem readValue_layer {P : Params} {s : State} {addr : BitVec 17} {i w : Nat} {r : LayerRec}
    (ha : addr.toNat = 0x1000 + 0x80 * i + 4 * w) (hlt : addr.toNat < 0x10000) (hi : i < P.maxDepth) (hw : w < 32)
    (hr : s.layers[i]? = some r) : readValue P s .byte4 addr = r.word w := by
  have hregion := regionOf_layer ha hlt hi hw
  have hreach : accessReaches P .byte4 addr = true := by
    rw [accessReaches, hregion]
    exact decide_eq_true ⟨rfl, by omega⟩
  rw [readValue, if_pos hreach, hregion]
  simp only [readSlot, hr]

/-! ### Sub-fields and their words -/

/-- The highest bits of a field, from bit `start` on, as a word. -/
theorem fieldWord_high {n start len : Nat} (v : BitVec n) (h : n ≤ start + len) :
    fieldWord (v.extractLsb' start len) = (v >>> start).setWidth 32 := by
  have hlt : v.toNat / 2 ^ start < 2 ^ len := by
    rw [Nat.div_lt_iff_lt_mul (by positivity), ← pow_add, Nat.add_comm]
    exact v.isLt.trans_le (Nat.pow_le_pow_right (by decide) h)
  apply BitVec.eq_of_toNat_eq
  rw [fieldWord, BitVec.toNat_setWidth, BitVec.toNat_setWidth, BitVec.extractLsb'_toNat, BitVec.toNat_ushiftRight,
    Nat.shiftRight_eq_div_pow, Nat.mod_eq_of_lt hlt]

/-- The 32 bits of a field from bit `start` on. -/
theorem extractLsb'_word {n : Nat} (v : BitVec n) (start : Nat) :
    v.extractLsb' start 32 = (v >>> start).setWidth 32 := by
  apply BitVec.eq_of_toNat_eq
  rw [BitVec.toNat_setWidth, BitVec.extractLsb'_toNat, BitVec.toNat_ushiftRight]

/-- `len` bits of a field from bit `start` on, by shift and mask. -/
theorem fieldWord_masked {n start len : Nat} (v : BitVec n) {m : BitVec n} (hm : m.toNat = 2 ^ len - 1) :
    fieldWord (v.extractLsb' start len) = ((v >>> start) &&& m).setWidth 32 := by
  apply BitVec.eq_of_toNat_eq
  rw [fieldWord, BitVec.toNat_setWidth, BitVec.toNat_setWidth, BitVec.extractLsb'_toNat, BitVec.toNat_and,
    BitVec.toNat_ushiftRight, hm, Nat.and_two_pow_sub_one_eq_mod]

theorem fieldWord_tciPcp (tci : Half) : fieldWord (tciPcp tci) = (tci >>> 13).setWidth 32 :=
  fieldWord_high tci (by decide)

theorem fieldWord_tciDei (tci : Half) : fieldWord (tciDei tci) = ((tci >>> 12) &&& 1).setWidth 32 :=
  fieldWord_masked tci rfl

theorem fieldWord_tciVid (tci : Half) : fieldWord (tciVid tci) = (tci &&& 0xFFF).setWidth 32 := by
  rw [tciVid, fieldWord_masked tci (m := 0xFFF) rfl, BitVec.ushiftRight_zero]

/-! ### The words of a record -/

/-- The bits of `HEAD` (10_state R44), for every value of its flags and of the kind. -/
theorem headBits (code : BitVec 4) (valid checked mismatch tagged opts : Bool) :
    let head := (0 : BitVec 19) ++ flagBit opts ++ flagBit tagged ++ flagBit mismatch ++ flagBit checked
      ++ flagBit valid ++ (0 : BitVec 4) ++ code
    head.extractLsb' 0 4 = code ∧ head.extractLsb' 4 4 = 0 ∧ head.getLsbD 8 = valid ∧ head.getLsbD 9 = checked ∧
      head.getLsbD 10 = mismatch ∧ head.getLsbD 11 = tagged ∧ head.getLsbD 12 = opts ∧ head.extractLsb' 13 19 = 0 := by
  revert code valid checked mismatch tagged opts
  decide

theorem LayerRec.hasOpts_iff (r : LayerRec) :
    r.hasOpts = true ↔ (r.kind = .ip4 ∨ r.kind = .tcp) ∧ 0 < r.optLen.toNat := by
  have hlen : r.optLen ≠ 0 ↔ 0 < r.optLen.toNat := by
    rw [Nat.pos_iff_ne_zero, ne_eq, ne_eq, ← BitVec.toNat_inj]
    rfl
  rw [LayerRec.hasOpts, Bool.and_eq_true, decide_eq_true_iff, decide_eq_true_iff, hlen]

/-- An IP protocol number as `NEXT_IND` behind `IND_KIND` 2 (10_state R44). -/
theorem NextInd.word_ipproto (v : Byte) :
    (NextInd.ipproto v).word = (0 : BitVec 14) ++ (2 : BitVec 2) ++ (0 : Byte) ++ v := by
  revert v
  decide

/-- Listing the first `n` entries of a list, with a default after its end. -/
theorem map_getD_range {α : Type} (l : List α) (d : α) {n : Nat} (h : l.length ≤ n) :
    (List.range n).map (fun j => l.getD j d) = l ++ List.replicate (n - l.length) d := by
  apply List.ext_getElem
  · simp; omega
  · intro j h1 h2
    by_cases hj : j < l.length <;> simp [hj, List.getElem_append]

/-- The words from `W8` on are those of the record's kind (10_state R46 to R52). -/
theorem LayerRec.word_body (r : LayerRec) (j : Nat) : r.word (8 + j) = r.body.words.getD j 0 := by
  rw [LayerRec.word, List.getD_append_right _ _ _ _ (by simp [LayerRec.commonWords])]
  congr 1
  simp [LayerRec.commonWords]

theorem LayerRec.words_tail (r : LayerRec) (h : r.body.words.length ≤ 24) :
    (List.range 24).map (fun j => r.word (8 + j)) =
      r.body.words ++ List.replicate (24 - r.body.words.length) 0 := by
  simp only [LayerRec.word_body]
  exact map_getD_range _ _ h

theorem LayerBody.words_length (b : LayerBody) : b.words.length ≤ 24 := by
  cases b <;> simp [LayerBody.words, wordsOf128]

/-- Settles O12. -/
theorem validSlotsReadTheirWords : Obligations.ValidSlotsReadTheirWords := by
  refine ⟨fun s i w r hr hi hw => ?_, fun r => ?_⟩
  · have hi16 : i < 16 := hi
    have ha : (BitVec.ofNat 17 (0x1000 + 0x80 * i + 4 * w)).toNat = 0x1000 + 0x80 * i + 4 * w :=
      Nat.mod_eq_of_lt (by omega)
    exact readValue_layer ha (by omega) hi hw hr
  · obtain ⟨hcode, hzero, hvalid, hchecked, hmismatch, htagged, hopts, htop⟩ :=
      headBits r.kind.code r.ckValid r.ckChecked r.lenMismatch r.tagged r.hasOpts
    refine ⟨?_, hzero, hvalid, hchecked, hmismatch, htagged, ?_, htop, rfl, rfl, rfl, rfl, ?_, rfl, rfl, ?_⟩
    · refine hcode.trans ?_
      rw [LayerRec.kind]
      cases r.body <;> rfl
    · exact hopts ▸ r.hasOpts_iff
    · show r.ind.word = _
      cases r.ind with
      | none => rfl
      | etype v => rfl
      | ipproto v => exact NextInd.word_ipproto v
    · rw [r.words_tail r.body.words_length]
      cases r.body with
      | eth f =>
        simp only [LayerBody.words, fieldWord_tciPcp, fieldWord_tciDei, fieldWord_tciVid,
          fieldWord_high f.dst (start := 32) (len := 16) (by decide),
          fieldWord_high f.src (start := 32) (len := 16) (by decide), extractLsb'_word, BitVec.ushiftRight_zero]
        rfl
      | vlan f =>
        simp only [LayerBody.words, fieldWord_tciPcp, fieldWord_tciDei, fieldWord_tciVid]
        rfl
      | ip4 f => rfl
      | ip6 f =>
        simp only [LayerBody.words, wordsOf128, extractLsb'_word, BitVec.ushiftRight_zero]
        rfl
      | tcp f => rfl
      | udp f => rfl
      | icmp f => rfl

end Sys2Proof.Machine
end

section
/-! What a parser or a checksum reads: two buffers with the same bytes in the window give the same answer
(00_scope R15, 20_memory R61). -/

namespace Sys2Proof.Machine

/-- The buffers `f` and `g` hold the same bytes in the window of `len` bytes from `off`. -/
def SameOn (f g : Nat → Byte) (off len : Nat) : Prop := ∀ a, off ≤ a → a < off + len → f a = g a

section
variable {f g : Nat → Byte} {off len : Nat} (h : SameOn f g off len)
include h

theorem SameOn.bytesFrom {a n : Nat} (ha : off ≤ a) (hn : a + n ≤ off + len) : bytesFrom f a n = bytesFrom g a n :=
  bytesFrom_congr fun x hx hx' => h x (by omega) (by omega)

theorem SameOn.memRead {w a : Nat} (ha : off ≤ a) (hw : a + w / 8 ≤ off + len) : memRead f w a = memRead g w a :=
  memRead_congr fun x hx hx' => h x (by omega) (by omega)

theorem SameOn.verifyIp4 {n : Nat} (hn : n ≤ len) : verifyIp4 f off n = verifyIp4 g off n := by
  rw [Machine.verifyIp4, Machine.verifyIp4, h.bytesFrom (le_refl _) (by omega)]

theorem SameOn.verifyXport (ph : PseudoHeader) (p : Nat) : verifyXport ph f off len p = verifyXport ph g off len p := by
  rw [Machine.verifyXport, Machine.verifyXport, h.bytesFrom (le_refl _) (by omega)]

end

/-! ### The local cursor: a read that succeeds stays inside its window -/

section
variable {β : Type} {f g : Nat → Byte} {c : LocalCursor} {w n : Nat}

theorem LocalCursor.rd_congr (h : SameOn f g c.base c.len) : c.rd f w = c.rd g w := by
  rcases Nat.lt_or_ge c.remaining (w / 8) with hw | hw
  · rw [LocalCursor.rd_error f hw, LocalCursor.rd_error g hw]
  · have hread : memRead f w (c.base + c.pos) = memRead g w (c.base + c.pos) :=
      memRead_congr fun x hx hx' => h x (by omega) (by rw [LocalCursor.remaining_eq] at hw; omega)
    rw [LocalCursor.rd_ok f hw, LocalCursor.rd_ok g hw, hread]

/-- A cursor program that begins with a read: the buffers may differ outside the window, and what follows need only
agree on the cursor after the read, which has the same window. -/
theorem LocalCursor.rd_then_congr {k k' : BitVec w × LocalCursor → Except Code β} (h : SameOn f g c.base c.len)
    (hk : ∀ v, k (v, c.advance (w / 8)) = k' (v, c.advance (w / 8))) : (c.rd f w >>= k) = (c.rd g w >>= k') := by
  rw [LocalCursor.rd_congr h]
  rcases LocalCursor.rd_cases c g w with ⟨_, he⟩ | ⟨_, he⟩ <;> rw [he]
  · exact hk _
  · rfl

theorem LocalCursor.peek_then_congr {k k' : Nat × Nat → Except Code β}
    (hk : ∀ v, n ≤ c.remaining → k v = k' v) : (c.peek n >>= k) = (c.peek n >>= k') := by
  unfold LocalCursor.peek
  split
  · rfl
  · exact hk _ (by omega)

end

/-! ### The parsers -/

section
variable {f g : Nat → Byte}

theorem readEthType_congr {P : Params} {c : LocalCursor} (h : SameOn f g c.base c.len) :
    readEthType P f c = readEthType P g c :=
  LocalCursor.rd_then_congr h fun _ =>
    ite_congr rfl (fun _ => LocalCursor.rd_then_congr h fun _ => LocalCursor.rd_then_congr h fun _ => rfl) fun _ => rfl

theorem readIp4_congr {c : LocalCursor} (h : SameOn f g c.base c.len) (version ihl : BitVec 4) :
    readIp4 f c version ihl = readIp4 g c version ihl := by
  unfold readIp4
  iterate 9 refine LocalCursor.rd_then_congr h fun _ => ?_
  rfl

theorem readTcp_congr {c : LocalCursor} (h : SameOn f g c.base c.len) : readTcp f c = readTcp g c := by
  unfold readTcp
  iterate 8 refine LocalCursor.rd_then_congr h fun _ => ?_
  rfl

variable {off len : Nat} (h : SameOn f g off len)
include h

/-- The FCS is read where `ETH_MIN_FRAME` leaves room for it (42_parsers_link_net R143). -/
theorem parseEth_congr {P : Params} (fcsEn : Bool) (hmin : 4 ≤ P.ethMinFrame) :
    parseEth P f off len fcsEn = parseEth P g off len fcsEn := by
  refine ite_congr rfl (fun _ => rfl) fun hlen => LocalCursor.rd_then_congr h fun _ =>
    LocalCursor.rd_then_congr h fun _ => ?_
  dsimp only
  rw [readEthType_congr h]
  refine bind_congr fun _ => ite_congr rfl (fun hfcs => ?_) fun _ => rfl
  have hfits : 4 ≤ len := hmin.trans (not_lt.1 fun hl => hlen ⟨hfcs, hl⟩)
  rw [h.memRead (by omega) (by omega), h.bytesFrom (le_refl _) (by omega)]

theorem parseVlan_congr : parseVlan f off len = parseVlan g off len :=
  LocalCursor.rd_then_congr h fun _ => LocalCursor.rd_then_congr h fun _ => rfl

theorem parseIp4_congr (strict : Bool) : parseIp4 f off len strict = parseIp4 g off len strict := by
  refine LocalCursor.rd_then_congr h fun _ => ite_congr rfl (fun _ => rfl) fun _ =>
    ite_congr rfl (fun _ => rfl) fun _ => ite_congr rfl (fun _ => rfl) fun hl => ?_
  rw [readIp4_congr h, h.verifyIp4 (not_lt.1 hl)]

theorem parseIp6_congr : parseIp6 f off len = parseIp6 g off len := by
  refine LocalCursor.peek_then_congr fun _ h1 => ?_
  rw [h.memRead (le_refl _) (Nat.add_le_add_left h1 off)]
  refine ite_congr rfl (fun _ => rfl) fun _ => ?_
  iterate 6 refine LocalCursor.rd_then_congr h fun _ => ?_
  rfl

theorem parseTcp_congr (ph : PseudoHeader) (strict : Bool) :
    parseTcp f off len ph strict = parseTcp g off len ph strict := by
  unfold parseTcp
  rw [readTcp_congr h, h.verifyXport]

theorem parseUdp_congr (ph : PseudoHeader) (strict : Bool) :
    parseUdp f off len ph strict = parseUdp g off len ph strict := by
  unfold parseUdp
  rw [h.verifyXport]
  iterate 4 refine LocalCursor.rd_then_congr h fun _ => ?_
  rfl

theorem parseIcmp_congr (ph : PseudoHeader) (strict : Bool) :
    parseIcmp f off len ph strict = parseIcmp g off len ph strict := by
  unfold parseIcmp
  rw [h.verifyXport]
  iterate 3 refine LocalCursor.rd_then_congr h fun _ => ?_
  rfl

end

/-- The bytes of `BUF` in the window are all a parser reads of the memory (44_dispatch_deep R202). -/
theorem runParser_congr {P : Params} {s u : State} (hopr : u.opr = s.opr) (hlayers : u.layers = s.layers) (kind : Kind)
    {off len : Nat} (h : SameOn u.byteAt s.byteAt off len) (hmin : 4 ≤ P.ethMinFrame) :
    runParser P u kind off len = runParser P s kind off len := by
  unfold runParser
  rw [hopr, hlayers]
  cases kind with
  | none => rfl
  | eth => exact congrArg some (parseEth_congr h _ hmin)
  | vlan => exact congrArg some (parseVlan_congr h)
  | ip4 => exact congrArg some (parseIp4_congr h _)
  | ip6 => exact congrArg some (parseIp6_congr h)
  | tcp => exact congrArg some (parseTcp_congr h _ _)
  | udp => exact congrArg some (parseUdp_congr h _ _)
  | icmp => exact congrArg some (parseIcmp_congr h _ _)

end Sys2Proof.Machine
end

section
/-! The frame every command keeps: `BUF`, the operand registers and what belongs to the host (20_memory R62,
00_scope R10). -/

namespace Sys2Proof.Machine

/-- From `s` to `t` nothing changed that only the host writes. -/
structure KeepsHost (s t : State) : Prop where
  mem : t.mem = s.mem
  opr : t.opr = s.opr
  hostOps : t.hostOps = s.hostOps
  readData : t.readData = s.readData
  reads : t.reads = s.reads
  resets : t.resets = s.resets

theorem KeepsHost.refl (s : State) : KeepsHost s s := ⟨rfl, rfl, rfl, rfl, rfl, rfl⟩

section
variable {s t : State} (h : KeepsHost s t)
include h

theorem KeepsHost.byteAt (a : Nat) : t.byteAt a = s.byteAt a := State.byteAt_congr h.mem h.resets a

/-! ### Register updates of the engine -/

theorem KeepsHost.setStatus (st : Status) : KeepsHost s (t.setStatus st) := { h with }
theorem KeepsHost.succeed : KeepsHost s t.succeed := h.setStatus _
theorem KeepsHost.fail (code : Code) (k : Nat) : KeepsHost s (t.fail code k) := h.setStatus _
theorem KeepsHost.setRes (r : Results) : KeepsHost s (t.setRes r) := { h with }
theorem KeepsHost.setCur (c : CursorRegs) : KeepsHost s (t.setCur c) := { h with }
theorem KeepsHost.setDp (d : Sequencer) : KeepsHost s (t.setDp d) := { h with }
theorem KeepsHost.setLayers (ls : List LayerRec) : KeepsHost s (t.setLayers ls) := { h with }
theorem KeepsHost.deepFailed (code : Code) : KeepsHost s (t.deepFailed code) := { h with }

theorem KeepsHost.deepBody {P : Params} {u : State} (hu : deepBody P t = some u) : KeepsHost s u := by
  rcases deepBody_cases P t with ⟨_, he⟩ | ⟨_, _, he⟩ | ⟨code, _, _, he⟩ | ⟨rec, _, _, he⟩ <;>
    rw [he] at hu <;> cases hu
  · exact h.deepFailed _
  · exact h.deepFailed _
  · exact ((h.setLayers _).setDp _).setStatus _

end

theorem KeepsHost.deepLoop {P : Params} {s t u : State} (rounds : Nat) (h : KeepsHost s t)
    (hu : deepLoop P rounds t = some u) : KeepsHost s u := by
  induction rounds generalizing t with
  | zero => cases hu; exact h
  | succ rounds ih =>
    by_cases hp : t.dp.state = .parsing
    · rw [deepLoop_parsing rounds hp] at hu
      obtain ⟨v, hv, hu⟩ := Option.bind_eq_some_iff.1 hu
      exact ih (h.deepBody hv) hu
    · rw [deepLoop_terminal _ hp] at hu
      cases hu; exact h

/-! ### The shared operations of the commands -/

section
variable {P : Params} {s : State}

theorem fail_keepsHost (code : Code) (k : Nat) : KeepsHost s (s.fail code k) := (KeepsHost.refl s).fail code k

theorem cursorCommand_keepsHost {n : Nat} {effect : State} (he : KeepsHost s effect) :
    KeepsHost s (cursorCommand P s n effect) := by
  rcases cursorCommand_cases P s n effect with ⟨_, hc⟩ | ⟨_, _, hc⟩ | ⟨_, _, hc⟩ <;> rw [hc]
  · exact fail_keepsHost _ _
  · exact fail_keepsHost _ _
  · exact he

theorem curOpenCmd_keepsHost : KeepsHost s (curOpenCmd P s) := by
  rcases curOpenCmd_cases P s with ⟨_, hc⟩ | ⟨_, hc⟩ <;> rw [hc]
  · exact fail_keepsHost _ _
  · exact ((KeepsHost.refl s).setCur _).succeed

theorem curSkipCmd_keepsHost : KeepsHost s (curSkipCmd s) := by
  rcases curSkipCmd_cases s with ⟨_, hc⟩ | ⟨_, hc⟩ <;> rw [hc]
  · exact fail_keepsHost _ _
  · exact ((KeepsHost.refl s).setCur _).succeed

theorem csumCommand_keepsHost (p : Nat) (verify : Nat → Nat → Verdict) :
    KeepsHost s (csumCommand P s p verify) := by
  rcases csumCommand_cases P s p verify with ⟨_, he⟩ | ⟨_, _, he⟩ | ⟨_, _, he⟩ <;> rw [he]
  · exact fail_keepsHost _ _
  · exact fail_keepsHost _ _
  · exact ((KeepsHost.refl s).setRes _).succeed

theorem csumXportCmd_keepsHost (x : Xport) : KeepsHost s (csumXportCmd P x s) := by
  rcases csumXportCmd_cases P x s with ⟨_, he⟩ | ⟨_, _, he⟩ <;> rw [he]
  · exact fail_keepsHost _ _
  · exact csumCommand_keepsHost _ _

theorem shallowResult_keepsHost (r : Except Code LayerRec) : KeepsHost s (shallowResult s r) := by
  have hidle := (KeepsHost.refl s).setDp { s.dp with state := .idle }
  cases r with
  | ok rec => exact (hidle.setLayers _).succeed
  | error code => exact (hidle.setLayers _).fail code 0

theorem parseCommand_keepsHost (parser : Nat → Nat → Except Code LayerRec) :
    KeepsHost s (parseCommand P s parser) := by
  rcases parseCommand_cases P s parser with ⟨_, he⟩ | ⟨_, he⟩ <;> rw [he]
  · exact fail_keepsHost _ _
  · exact shallowResult_keepsHost _

theorem transportCommand_keepsHost (parser : PseudoHeader → Nat → Nat → Except Code LayerRec) :
    KeepsHost s (transportCommand P s parser) := by
  rcases transportCommand_cases P s parser with ⟨_, he⟩ | ⟨_, _, he⟩ <;> rw [he]
  · exact fail_keepsHost _ _
  · exact parseCommand_keepsHost _

theorem deepStartCmd_keepsHost (kind : Kind) : KeepsHost s (deepStartCmd P kind s) := by
  rcases deepStartCmd_cases P kind s with ⟨_, he⟩ | ⟨_, _, he⟩ | ⟨_, _, he⟩ <;> rw [he]
  · exact fail_keepsHost _ _
  · exact fail_keepsHost _ _
  · exact (((KeepsHost.refl s).setLayers _).setDp _).succeed

theorem deepCommand_keepsHost {work : Option State} {t : State} (hwork : work = some t → KeepsHost s t)
    (ht : deepCommand P s work = some t) : KeepsHost s t := by
  rcases deepCommand_cases P s work with ⟨_, he⟩ | ⟨_, _, he⟩ | ⟨_, _, he⟩ <;> rw [he] at ht
  · cases ht; exact fail_keepsHost _ _
  · cases ht; exact fail_keepsHost _ _
  · exact hwork ht

end

/-! ### Every command -/

theorem exec_keepsHost {i : Instr} {s t : State} (ht : exec i s = .next t) : KeepsHost s t := by
  have hs := KeepsHost.refl s
  cases i with
  | nop => cases ht; exact hs.succeed
  | curOpen => cases ht; exact curOpenCmd_keepsHost
  | curRd8 | curRd16 | curRd32 => cases ht; exact cursorCommand_keepsHost ((hs.setRes _).setCur _).succeed
  | curRdb => cases ht; exact cursorCommand_keepsHost ((hs.setRes _).setCur _).succeed
  | curPeek => cases ht; exact cursorCommand_keepsHost (hs.setRes _).succeed
  | curRem => cases ht; exact (hs.setRes _).succeed
  | curSkip => cases ht; exact curSkipCmd_keepsHost
  | csumIp4 => cases ht; exact csumCommand_keepsHost _ _
  | csumXport x => cases ht; exact csumXportCmd_keepsHost x
  | parseEth | parseVlan | parseIp4 | parseIp6 => cases ht; exact parseCommand_keepsHost _
  | parseTcp | parseUdp | parseIcmp => cases ht; exact transportCommand_keepsHost _
  | dispEtype | dispIpproto => cases ht; exact (hs.setRes _).setStatus _
  | deepStart kind => cases ht; exact deepStartCmd_keepsHost kind
  | deepStep => exact deepCommand_keepsHost hs.deepBody (deepOutcome_eq_next.1 ht)
  | deepRun => exact deepCommand_keepsHost (KeepsHost.deepLoop _ hs) (deepOutcome_eq_next.1 ht)
  | clear => cases ht; exact (((hs.setCur _).setDp _).setLayers _ |>.setRes _).succeed

/-- A command word runs its command, or fails without one (30_encoding R83). -/
theorem runCommand_keepsHost {w : Word} {s t : State} (ht : runCommand w s = .next t) : KeepsHost s t := by
  unfold runCommand at ht
  cases hd : decode w with
  | cmd i => rw [hd] at ht; exact exec_keepsHost ht
  | illegal why => rw [hd] at ht; cases ht; exact fail_keepsHost _ _

end Sys2Proof.Machine
end

section
/-! The engine reads no byte of `BUF` at or above `BUF_LEN`: with other bytes there every command does the same
(20_memory R69). -/

namespace Sys2Proof.Machine

/-- The memory `m` differs from the one of `s` in bytes at or above `BUF_LEN` only. -/
def State.SameBelow (s : State) (m : Memory) : Prop :=
  ∀ a, a < s.opr.bufLen.toNat → (s.setMem m).byteAt a = s.byteAt a

/-- A slice that passes the window check holds the same bytes in both memories (60_exceptions R234). -/
theorem State.SameBelow.sameOn {P : Params} {s : State} {m : Memory} {o n : Nat} (h : s.SameBelow m)
    (hs : s.sliceOk P o n) : SameOn (s.setMem m).byteAt s.byteAt o n :=
  fun a _ ha => h a (ha.trans_le hs.1)

/-- An outcome with its state put through `f`. -/
def mapNext (f : State → State) : Outcome → Outcome
  | .next t => .next (f t)
  | .fault r => .fault r
  | .refused r => .refused r

theorem deepOutcome_map (f : State → State) (r : Option State) :
    deepOutcome (r.map f) = mapNext f (deepOutcome r) := by
  cases r <;> rfl

/-! ### The shared operations of the commands: checks read registers only -/

section
variable {P : Params} {s : State} {m : Memory}

theorem curOpenCmd_setMem : curOpenCmd P (s.setMem m) = (curOpenCmd P s).setMem m := by
  unfold curOpenCmd
  rw [apply_ite (State.setMem · m)]
  rfl

theorem curSkipCmd_setMem : curSkipCmd (s.setMem m) = (curSkipCmd s).setMem m := by
  unfold curSkipCmd
  rw [apply_ite (State.setMem · m)]
  rfl

theorem deepStartCmd_setMem (kind : Kind) : deepStartCmd P kind (s.setMem m) = (deepStartCmd P kind s).setMem m := by
  unfold deepStartCmd
  rw [apply_ite (State.setMem · m), apply_ite (State.setMem · m)]
  rfl

theorem cursorCommand_setMem {n : Nat} {effect effect' : State}
    (h : s.cursorOk P → n ≤ s.curRemaining → effect' = effect.setMem m) :
    cursorCommand P (s.setMem m) n effect' = (cursorCommand P s n effect).setMem m := by
  unfold cursorCommand
  rw [apply_ite (State.setMem · m), apply_ite (State.setMem · m)]
  exact ite_congr rfl (fun _ => rfl) fun hok => ite_congr rfl (fun _ => rfl) fun hn => h (not_not.1 hok) (not_lt.1 hn)

theorem csumCommand_setMem {p : Nat} {verify verify' : Nat → Nat → Verdict}
    (h : s.windowOk P → verify' s.winOff s.winLen = verify s.winOff s.winLen) :
    csumCommand P (s.setMem m) p verify' = (csumCommand P s p verify).setMem m := by
  unfold csumCommand
  rw [apply_ite (State.setMem · m), apply_ite (State.setMem · m)]
  refine ite_congr rfl (fun _ => rfl) fun hok => ite_congr rfl (fun _ => rfl) fun _ => ?_
  exact congrArg (fun v => (s.setVerdict v).setMem m) (h (not_not.1 hok))

theorem shallowResult_setMem (r : Except Code LayerRec) :
    shallowResult (s.setMem m) r = (shallowResult s r).setMem m := by
  cases r <;> rfl

theorem parseCommand_setMem {parser parser' : Nat → Nat → Except Code LayerRec}
    (h : s.windowOk P → parser' s.winOff s.winLen = parser s.winOff s.winLen) :
    parseCommand P (s.setMem m) parser' = (parseCommand P s parser).setMem m := by
  unfold parseCommand
  rw [apply_ite (State.setMem · m)]
  refine ite_congr rfl (fun _ => rfl) fun hok => ?_
  rw [← shallowResult_setMem, ← h (not_not.1 hok)]
  rfl

theorem State.pseudoHeader_setMem : (s.setMem m).pseudoHeader = s.pseudoHeader := rfl

theorem transportCommand_setMem {parser parser' : PseudoHeader → Nat → Nat → Except Code LayerRec}
    (h : ∀ ph, s.windowOk P → parser' ph s.winOff s.winLen = parser ph s.winOff s.winLen) :
    transportCommand P (s.setMem m) parser' = (transportCommand P s parser).setMem m := by
  unfold transportCommand
  rw [State.pseudoHeader_setMem]
  cases s.pseudoHeader with
  | none => rfl
  | some ph => exact parseCommand_setMem (h ph)

theorem deepCommand_setMem {work work' : Option State} (h : s.deepOk P → work' = work.map (State.setMem · m)) :
    deepCommand P (s.setMem m) work' = (deepCommand P s work).map (State.setMem · m) := by
  unfold deepCommand
  rw [apply_ite (Option.map _), apply_ite (Option.map _)]
  exact ite_congr rfl (fun _ => rfl) fun _ => ite_congr rfl (fun _ => rfl) fun hok => h (not_not.1 hok)

end

/-! ### The commands that read bytes -/

section
variable {P : Params} {s : State} {m : Memory} (h : s.SameBelow m)
include h

theorem curReadCmd_setMem (w : Nat) : curReadCmd P w (s.setMem m) = (curReadCmd P w s).setMem m :=
  cursorCommand_setMem fun hok hn => by
    have hread : memRead (s.setMem m).byteAt w s.curAddr = memRead s.byteAt w s.curAddr :=
      memRead_congr fun x hx hx' => by
        unfold State.curAddr at hx hx'
        unfold State.curRemaining at hn
        exact h.sameOn hok x (by omega) (by omega)
    rw [← hread]
    rfl

theorem csumXportCmd_setMem (x : Xport) : csumXportCmd P x (s.setMem m) = (csumXportCmd P x s).setMem m := by
  unfold csumXportCmd
  rw [State.pseudoHeader_setMem]
  cases s.pseudoHeader with
  | none => rfl
  | some ph => exact csumCommand_setMem fun hok => (h.sameOn hok).verifyXport ph _

theorem deepBody_setMem (hmin : 4 ≤ P.ethMinFrame) (hok : s.deepOk P) :
    deepBody P (s.setMem m) = (deepBody P s).map (State.setMem · m) := by
  have hsame : SameOn (s.setMem m).byteAt s.byteAt s.dp.off.toNat s.dp.len.toNat := h.sameOn hok
  have hrun : runParser P (s.setMem m) s.dp.next s.dp.off.toNat s.dp.len.toNat =
      runParser P s s.dp.next s.dp.off.toNat s.dp.len.toNat :=
    runParser_congr (State.setMem_opr s m) (State.setMem_layers s m) _ hsame hmin
  unfold deepBody
  rw [apply_ite (Option.map _), State.setMem_dp, hrun]
  refine ite_congr rfl (fun _ => rfl) fun _ => ?_
  cases runParser P s s.dp.next s.dp.off.toNat s.dp.len.toNat with
  | none => rfl
  | some r =>
    cases r with
    | error code => rfl
    | ok rec => rfl

end

/-- The agreement carries over to a state with the same memory and the same `BUF_LEN`. -/
theorem State.SameBelow.keepsHost {s t : State} {m : Memory} (h : s.SameBelow m) (ht : KeepsHost s t) :
    t.SameBelow m := fun a ha => by
  have hset : (t.setMem m).byteAt a = (s.setMem m).byteAt a :=
    State.byteAt_congr (s := s.setMem m) (t := t.setMem m) rfl ht.resets a
  rw [ht.opr] at ha
  rw [hset, ht.byteAt, h a ha]

/-- What `RunParser` decodes from a slice inside the buffer is a valid slot that covers the slice (44_dispatch_deep
R202). -/
theorem runParser_decodedFrom {P : Params} {s : State} {kind : Kind} {off len : Nat} {rec : LayerRec}
    (hP : P.Admissible) (hmin : 22 ≤ P.ethMinFrame) (hbuf : off + len ≤ P.bufSize)
    (hr : runParser P s kind off len = some (.ok rec)) : rec.DecodedFrom P kind off len := by
  have hmax := hP.bufSize_max
  obtain ⟨_, hrec, ha⟩ := Option.map_eq_some_iff.1 ((runParser_answer _ _ _ _ _).symm.trans hr)
  obtain ⟨hf, rfl⟩ := answerOf_eq_ok.1 ha
  exact State.layerRecord_decodedFrom hmin (by omega) hbuf hf hrec

/-- A step of a deep parse leaves a slice that passes the window check again: the one it failed on, or the payload of
the layer it decoded, which lies inside it (44_dispatch_deep R201, R209). -/
theorem deepOk_deepBody {P : Params} {s t : State} (hP : P.Admissible) (hmin : 22 ≤ P.ethMinFrame) (hok : s.deepOk P)
    (ht : deepBody P s = some t) : t.deepOk P := by
  obtain ⟨hend, hbuf⟩ := hok
  rcases deepBody_cases P s with ⟨_, he⟩ | ⟨_, _, he⟩ | ⟨code, _, _, he⟩ | ⟨rec, _, hr, he⟩ <;>
    rw [he] at ht <;> cases ht
  · exact ⟨hend, hbuf⟩
  · exact ⟨hend, hbuf⟩
  · have hpay := (runParser_decodedFrom hP hmin (hend.trans hbuf) hr).payEnd
    have hfits : rec.payOff.toNat + rec.payLen.toNat ≤ s.opr.bufLen.toNat := by omega
    refine ⟨?_, hbuf⟩
    rcases sequencerAfter_cases P s.dp rec with ⟨_, hdp⟩ | ⟨_, hdp⟩ <;> rw [deepAppend_dp, hdp] <;> exact hfits

theorem deepLoop_setMem {P : Params} {s : State} {m : Memory} (hP : P.Admissible) (hmin : 22 ≤ P.ethMinFrame)
    (rounds : Nat) (h : s.SameBelow m) (hok : s.deepOk P) :
    deepLoop P rounds (s.setMem m) = (deepLoop P rounds s).map (State.setMem · m) := by
  induction rounds generalizing s with
  | zero => rfl
  | succ rounds ih =>
    by_cases hp : s.dp.state = .parsing
    · have hbody := deepBody_setMem h (by omega) hok
      rw [deepLoop_parsing rounds hp, deepLoop_parsing rounds (s := s.setMem m) hp, hbody]
      cases ht : deepBody P s with
      | none => rfl
      | some t => exact ih (h.keepsHost ((KeepsHost.refl s).deepBody ht)) (deepOk_deepBody hP hmin hok ht)
    · rw [deepLoop_terminal _ hp, deepLoop_terminal (s := s.setMem m) _ hp]
      rfl

/-! ### Every command -/

/-- Every command does the same with other bytes at or above `BUF_LEN`, and leaves those bytes as they are. -/
theorem exec_setMem {i : Instr} {s : State} {m : Memory} (h : s.SameBelow m) :
    exec i (s.setMem m) = mapNext (State.setMem · m) (exec i s) := by
  cases i with
  | nop | curRem | dispEtype | dispIpproto | clear => rfl
  | curOpen => exact congrArg Host.Outcome.next curOpenCmd_setMem
  | curRd8 | curRd16 | curRd32 => exact congrArg Host.Outcome.next (curReadCmd_setMem h _)
  | curRdb | curPeek => exact congrArg Host.Outcome.next (cursorCommand_setMem fun _ _ => rfl)
  | curSkip => exact congrArg Host.Outcome.next curSkipCmd_setMem
  | csumIp4 =>
    exact congrArg Host.Outcome.next (csumCommand_setMem fun hok => (h.sameOn hok).verifyIp4 (le_refl _))
  | csumXport x => exact congrArg Host.Outcome.next (csumXportCmd_setMem h x)
  | parseEth =>
    exact congrArg Host.Outcome.next (parseCommand_setMem fun hok => parseEth_congr (h.sameOn hok) _ (by decide))
  | parseVlan =>
    exact congrArg Host.Outcome.next (parseCommand_setMem fun hok => parseVlan_congr (h.sameOn hok))
  | parseIp4 =>
    exact congrArg Host.Outcome.next (parseCommand_setMem fun hok => parseIp4_congr (h.sameOn hok) _)
  | parseIp6 =>
    exact congrArg Host.Outcome.next (parseCommand_setMem fun hok => parseIp6_congr (h.sameOn hok))
  | parseTcp =>
    exact congrArg Host.Outcome.next (transportCommand_setMem fun ph hok => parseTcp_congr (h.sameOn hok) ph _)
  | parseUdp =>
    exact congrArg Host.Outcome.next (transportCommand_setMem fun ph hok => parseUdp_congr (h.sameOn hok) ph _)
  | parseIcmp =>
    exact congrArg Host.Outcome.next (transportCommand_setMem fun ph hok => parseIcmp_congr (h.sameOn hok) ph _)
  | deepStart kind => exact congrArg Host.Outcome.next (deepStartCmd_setMem kind)
  | deepStep =>
    have hcmd : deepStepCmd build (s.setMem m) = (deepStepCmd build s).map (State.setMem · m) :=
      deepCommand_setMem fun hok => deepBody_setMem h (by decide) hok
    exact (congrArg deepOutcome hcmd).trans (deepOutcome_map _ _)
  | deepRun =>
    have hcmd : deepRunCmd build (s.setMem m) = (deepRunCmd build s).map (State.setMem · m) :=
      deepCommand_setMem fun hok => deepLoop_setMem build_admissible (by decide) _ h hok
    exact (congrArg deepOutcome hcmd).trans (deepOutcome_map _ _)

/-! ### Slices beyond `BUF_LEN` -/

section
variable {P : Params} {s : State}

theorem curOpenCmd_badWindow (hw : ¬ s.windowOk P) : curOpenCmd P s = s.onlyStatus .badWindow :=
  if_pos hw

theorem parseCommand_badWindow (hw : ¬ s.windowOk P) (parser : Nat → Nat → Except Code LayerRec) :
    parseCommand P s parser = s.onlyStatus .badWindow :=
  if_pos hw

theorem csumCommand_badWindow (hw : ¬ s.windowOk P) (p : Nat) (verify : Nat → Nat → Verdict) :
    csumCommand P s p verify = s.onlyStatus .badWindow :=
  if_pos hw

theorem cursorCommand_badWindow (hc : ¬ s.cursorOk P) (n : Nat) (effect : State) :
    cursorCommand P s n effect = s.onlyStatus .badWindow :=
  if_pos hc

theorem deepCommand_badWindow (hp : s.dp.state = .parsing) (hd : ¬ s.deepOk P) (work : Option State) :
    deepCommand P s work = some (s.onlyStatus .badWindow) := by
  rw [deepCommand, if_neg (not_not.2 hp), if_pos hd, State.fail_eq_onlyStatus]

theorem deepStartCmd_badWindow {kind : Kind} (hk : kind ≠ .none) (hw : ¬ s.windowOk P) :
    deepStartCmd P kind s = s.onlyStatus .badWindow := by
  rw [deepStartCmd, if_neg hk, if_pos hw, State.fail_eq_onlyStatus]

theorem transportCommand_badWindow (hk : s.opr.phKind ≠ 3) (hw : ¬ s.windowOk P)
    (parser : PseudoHeader → Nat → Nat → Except Code LayerRec) :
    transportCommand P s parser = s.onlyStatus .badWindow := by
  rcases transportCommand_cases P s parser with ⟨hn, _⟩ | ⟨ph, _, he⟩
  · exact absurd (State.pseudoHeader_eq_none.1 hn) hk
  · rw [he, parseCommand_badWindow hw]

theorem csumXportCmd_badWindow (hk : s.opr.phKind ≠ 3) (hw : ¬ s.windowOk P) (x : Xport) :
    csumXportCmd P x s = s.onlyStatus .badWindow := by
  rcases csumXportCmd_cases P x s with ⟨hn, _⟩ | ⟨ph, _, he⟩
  · exact absurd (State.pseudoHeader_eq_none.1 hn) hk
  · rw [he, csumCommand_badWindow hw]

end

/-- A command given a slice that is not inside the buffer fails with `BadWindow`, once its earlier checks passed
(60_exceptions R234, R237). -/
theorem exec_badWindow {i : Instr} {s : State} {o n : Nat} (hwf : i.wellFormed = true)
    (hslice : s.slice i = some (o, n)) (hph : i.readsPseudoHeader = true → s.opr.phKind ≠ 3)
    (hdeep : i = .deepStep ∨ i = .deepRun → s.dp.state = .parsing) (hout : ¬ s.sliceOk build o n) :
    exec i s = .next (s.onlyStatus .badWindow) := by
  cases i with
  | nop | curRem | curSkip | dispEtype | dispIpproto | clear => cases hslice
  | curOpen => cases hslice; exact congrArg Host.Outcome.next (curOpenCmd_badWindow hout)
  | curRd8 | curRd16 | curRd32 | curRdb | curPeek =>
    cases hslice; exact congrArg Host.Outcome.next (cursorCommand_badWindow hout _ _)
  | csumIp4 => cases hslice; exact congrArg Host.Outcome.next (csumCommand_badWindow hout _ _)
  | csumXport x => cases hslice; exact congrArg Host.Outcome.next (csumXportCmd_badWindow (hph rfl) hout x)
  | parseEth | parseVlan | parseIp4 | parseIp6 =>
    cases hslice; exact congrArg Host.Outcome.next (parseCommand_badWindow hout _)
  | parseTcp | parseUdp | parseIcmp =>
    cases hslice; exact congrArg Host.Outcome.next (transportCommand_badWindow (hph rfl) hout _)
  | deepStart kind =>
    cases hslice; exact congrArg Host.Outcome.next (deepStartCmd_badWindow (of_decide_eq_true hwf) hout)
  | deepStep => cases hslice; exact congrArg deepOutcome (deepCommand_badWindow (hdeep (.inl rfl)) hout _)
  | deepRun => cases hslice; exact congrArg deepOutcome (deepCommand_badWindow (hdeep (.inr rfl)) hout _)

/-- Settles O23: the commands commute with a change of the bytes at or above `BUF_LEN`, and the window check does not
look at bytes. -/
theorem engineReadsOnlyBelowBufLen : Obligations.EngineReadsOnlyBelowBufLen := by
  refine ⟨fun i s m h => ?_, fun i s o n hwf hslice hph hdeep hout => ?_⟩
  · have hstep : exec i (s.setMem m) = mapNext (State.setMem · m) (exec i s) := exec_setMem h
    rw [← State.setMem_eq, hstep]
    cases exec i s <;> rfl
  · exact exec_badWindow hwf hslice hph hdeep fun hok => absurd hok.1 (not_le.2 hout)

end Sys2Proof.Machine
end

section
/-! Host accesses to the buffer: what reaches `BUF`, its little-endian lanes, and `HostLoad` (20_memory R62, R64,
R66). -/

namespace Sys2Proof.Machine

/-! ### Accesses that reach nothing -/

theorem AccessSize.bytes_pos (size : AccessSize) : 0 < size.bytes := by cases size <;> decide

/-- An access beyond the end of `BUF` reaches nothing (20_memory R66). -/
theorem accessReaches_beyond {P : Params} {size : AccessSize} {addr : BitVec 17}
    (h : 0x10000 + P.bufSize ≤ addr.toNat) :
    accessReaches P size addr = false := by
  have hpos := size.bytes_pos
  rw [← Bool.not_eq_true, accessReaches_buffer (by omega)]
  rintro ⟨_, hfits⟩
  omega

/-- Only a full aligned word is a command (10_state R30, 20_memory R66). -/
theorem HostOp.command_write_eq_none {size : AccessSize} {addr : BitVec 17} (d : Word)
    (h : size ≠ .byte4 ∨ addr.toNat % 4 ≠ 0) : (HostOp.write size addr d).command = none := by
  refine Option.eq_none_iff_forall_ne_some.2 fun w hw => ?_
  cases HostOp.command_eq_some.1 hw
  rcases h with h | h <;> exact h rfl

/-- Settles O5. -/
theorem narrowOrMisalignedAccessesDoNothing : Obligations.NarrowOrMisalignedAccessesDoNothing := by
  refine ⟨fun P s size addr d hlt hn => ?_, fun d => rfl, fun P s size addr d hge => ?_⟩
  · have hun : accessReaches P size addr = false := accessReaches_below hlt hn
    exact ⟨hostWrite_unreached hun s d, readValue_unreached hun s, HostOp.command_write_eq_none d hn⟩
  · have hun : accessReaches P size addr = false := accessReaches_beyond hge
    exact ⟨hostWrite_unreached hun s d, readValue_unreached hun s⟩

/-! ### Accesses that reach the buffer -/

section
variable {P : Params} {size : AccessSize} {addr : BitVec 17} {a : Nat} (haddr : addr.toNat = 0x10000 + a)
  (halign : a % size.bytes = 0) (hfits : a + size.bytes ≤ P.bufSize)
include haddr

theorem regionOf_bufferByte : regionOf P addr = .buffer a := by
  rw [regionOf_buffer (by omega), haddr, Nat.add_sub_cancel_left]

include halign hfits

theorem accessReaches_bufferByte : accessReaches P size addr = true := by
  rw [accessReaches_buffer (by omega), haddr, Nat.add_sub_cancel_left]
  exact ⟨by cases size <;> simp only [AccessSize.bytes] at halign ⊢ <;> omega, hfits⟩

theorem hostWrite_buffer (s : State) (d : Word) :
    hostWrite P s size addr d = s.setMem (Memory.putBytes s.mem a (laneBytes d size.bytes)) := by
  rw [hostWrite, if_pos (accessReaches_bufferByte haddr halign hfits), regionOf_bufferByte haddr]

theorem readValue_buffer (s : State) :
    readValue P s size addr = BitVec.ofNat 32 (leValue (bytesFrom s.byteAt a size.bytes)) := by
  rw [readValue, if_pos (accessReaches_bufferByte haddr halign hfits), regionOf_bufferByte haddr]

end

/-! ### Bytes after a store -/

theorem byteAt_putBytes_inside (s : State) {off i : Nat} {bytes : List Byte} (hi : i < bytes.length) :
    (s.setMem (Memory.putBytes s.mem off bytes)).byteAt (off + i) = bytes[i] := by
  rw [byteAt_putBytes, dif_pos ⟨by omega, by omega⟩]
  simp only [Nat.add_sub_cancel_left]

theorem byteAt_putBytes_outside (s : State) {off x : Nat} {bytes : List Byte}
    (hx : x < off ∨ off + bytes.length ≤ x) :
    (s.setMem (Memory.putBytes s.mem off bytes)).byteAt x = s.byteAt x := by
  rw [byteAt_putBytes, dif_neg (by omega)]

/-! ### Little-endian values -/

theorem leValue_cons (b : Byte) (bs : List Byte) : leValue (b :: bs) = b.toNat + 256 * leValue bs := rfl

theorem leValue_lt (bs : List Byte) : leValue bs < 256 ^ bs.length := by
  induction bs with
  | nil => decide
  | cons b rest ih =>
    have hb : b.toNat < 256 := b.isLt
    rw [leValue_cons, List.length_cons, Nat.pow_succ']
    omega

/-- Byte `i` of the list is digit `i` of its value (20_memory R64). -/
theorem leValue_digit {bs : List Byte} {i : Nat} (hi : i < bs.length) :
    leValue bs / 256 ^ i % 256 = bs[i].toNat := by
  induction bs generalizing i with
  | nil => cases hi
  | cons b rest ih =>
    have hb : b.toNat < 256 := b.isLt
    cases i with
    | zero =>
      rw [leValue_cons, Nat.pow_zero, Nat.div_one, List.getElem_cons_zero]
      omega
    | succ i =>
      have hrest : (b.toNat + 256 * leValue rest) / 256 = leValue rest := by omega
      rw [leValue_cons, Nat.pow_succ', ← Nat.div_div_eq_div_mul, hrest, List.getElem_cons_succ]
      exact ih (Nat.lt_of_succ_lt_succ hi)

/-- Lane `i` of the bus word that carries a byte list of at most four bytes (20_memory R64). -/
theorem leValue_lane {bs : List Byte} {i : Nat} (h4 : bs.length ≤ 4) (hi : i < bs.length) :
    (BitVec.ofNat 32 (leValue bs)).extractLsb' (8 * i) 8 = bs[i] := by
  have hlt : leValue bs < 2 ^ 32 := (leValue_lt bs).trans_le (Nat.pow_le_pow_right (by decide) h4)
  apply BitVec.eq_of_toNat_eq
  rw [BitVec.extractLsb'_toNat, BitVec.toNat_ofNat, Nat.mod_eq_of_lt hlt, Nat.shiftRight_eq_div_pow, Nat.pow_mul]
  exact leValue_digit hi

/-- Settles O10. -/
theorem bufferAccessesUseLittleEndianLanes : Obligations.BufferAccessesUseLittleEndianLanes := by
  intro P s size a hP halign hfits
  have hpos := size.bytes_pos
  have hmax := hP.bufSize_max
  have haddr : (BitVec.ofNat 17 (0x10000 + a)).toNat = 0x10000 + a := Nat.mod_eq_of_lt (by omega)
  refine ⟨fun d => ?_, fun i hi => ?_⟩
  · rw [hostWrite_buffer haddr halign hfits]
    refine ⟨rfl, fun i hi => ?_, fun x hx => ?_⟩
    · rw [byteAt_putBytes_inside s (by rwa [laneBytes_length]), laneBytes_getElem d _ i hi]
    · exact byteAt_putBytes_outside s (by rwa [laneBytes_length])
  · have h4 : size.bytes ≤ 4 := by cases size <;> decide
    have hlen : (bytesFrom s.byteAt a size.bytes).length = size.bytes := bytesFrom_length _ _ _
    rw [readValue_buffer haddr halign hfits, leValue_lane (by rwa [hlen]) (by rwa [hlen])]
    exact Option.some.inj ((List.getElem?_eq_getElem _).symm.trans (bytesFrom_getElem? s.byteAt a _ i hi))

/-! ### `HostLoad` -/

/-- Settles O11: `HostLoad` is one store of its bytes; a command word keeps the memory. -/
theorem hostLoadStoresItsBytes : Obligations.HostLoadStoresItsBytes := by
  refine ⟨fun P s off bytes hfits => ?_, fun w s t ht a => (runCommand_keepsHost ht).byteAt a⟩
  refine ⟨_, if_pos hfits, rfl, fun i hi => ?_, fun x hx => byteAt_putBytes_outside s hx⟩
  rw [byteAt_putBytes_inside s hi, List.getElem?_eq_getElem hi]

end Sys2Proof.Machine
end

section
/-! The command word: its fields, the tables the decoder looks in, and its two answers, a command whose encoding the
word is or an illegal word (30_encoding R80 to R83). -/

namespace Sys2Proof

/-! ### The fields of a word -/

@[simp] theorem cmdRsv_cmdWord (opcode : Byte) (sel : BitVec 4) : cmdRsv (cmdWord opcode sel) = 0 := by
  unfold cmdRsv cmdWord
  rw [BitVec.extractLsb'_append_eq_of_le (by decide)]
  exact BitVec.extractLsb'_append_eq_left

@[simp] theorem cmdOpcode_cmdWord (opcode : Byte) (sel : BitVec 4) : cmdOpcode (cmdWord opcode sel) = opcode :=
  BitVec.extractLsb'_append_eq_right

@[simp] theorem cmdSel_cmdWord (opcode : Byte) (sel : BitVec 4) : cmdSel (cmdWord opcode sel) = sel := by
  unfold cmdSel cmdWord
  rw [BitVec.extractLsb'_append_eq_of_le (by decide)]
  exact BitVec.extractLsb'_append_eq_right

/-- A word is its three fields, so with `RSV = 0` it is the word of the other two. -/
theorem eq_cmdWord_of_rsv {w : Word} (hrsv : cmdRsv w = 0) : w = cmdWord (cmdOpcode w) (cmdSel w) := by
  have hhigh : cmdRsv w ++ cmdSel w = w.extractLsb' 8 24 := BitVec.extractLsb'_append_extractLsb'_eq_extractLsb' rfl
  have hfields : cmdRsv w ++ cmdSel w ++ cmdOpcode w = w := by
    rw [hhigh]
    exact (BitVec.extractLsb'_append_extractLsb'_eq_extractLsb' rfl).trans BitVec.extractLsb'_eq_self
  rw [hrsv] at hfields
  exact hfields.symm

theorem eq_encode_of_fields {w : Word} {i : Instr} (hrsv : cmdRsv w = 0) (hop : cmdOpcode w = i.opcode)
    (hsel : cmdSel w = i.sel) : w = encode i := by
  rw [eq_cmdWord_of_rsv hrsv, hop, hsel]
  rfl

/-! ### Selectors (30_encoding R82) -/

theorem Xport.ofSel_eq_some {sel : BitVec 4} {x : Xport} : Xport.ofSel sel = some x ↔ x.code = sel := by
  revert sel
  cases x <;> decide

theorem Xport.code_lt (x : Xport) : x.code.toNat < 3 := by cases x <;> decide

theorem Xport.reserved_of_ofSel {sel : BitVec 4} (h : Xport.ofSel sel = none) : 3 ≤ sel.toNat := by
  revert sel
  decide

theorem Kind.ofSel_eq_some {sel : BitVec 4} {k : Kind} : Kind.ofSel sel = some k ↔ k ≠ Kind.none ∧ k.code = sel := by
  revert sel
  cases k <;> decide

theorem Kind.code_lt (k : Kind) : k.code.toNat < 8 := by cases k <;> decide

theorem Kind.code_eq_zero {k : Kind} : k.code = 0 ↔ k = Kind.none := by cases k <;> decide

theorem Kind.reserved_of_ofSel {sel : BitVec 4} (h : Kind.ofSel sel = Option.none) : sel = 0 ∨ 8 ≤ sel.toNat := by
  revert sel
  decide

/-! ### Opcodes (30_encoding R81) -/

theorem Instr.opcode_mem_opcodeMap (i : Instr) : i.opcode ∈ Machine.opcodeMap := by
  cases i <;> simp [Instr.opcode, Machine.opcodeMap]

theorem Instr.exists_of_opcode_csumXport {i : Instr} (h : i.opcode = opCsumXport) : ∃ x, i = .csumXport x := by
  cases i with
  | csumXport x => exact ⟨x, rfl⟩
  | _ => exact absurd h (by simp [Instr.opcode, opCsumXport])

theorem Instr.exists_of_opcode_deepStart {i : Instr} (h : i.opcode = opDeepStart) : ∃ k, i = .deepStart k := by
  cases i with
  | deepStart k => exact ⟨k, rfl⟩
  | _ => exact absurd h (by simp [Instr.opcode, opDeepStart])

theorem Instr.sel_eq_zero {i : Instr} (hx : i.opcode ≠ opCsumXport) (hd : i.opcode ≠ opDeepStart) : i.sel = 0 := by
  cases i with
  | csumXport x => exact absurd rfl hx
  | deepStart k => exact absurd rfl hd
  | _ => rfl

/-- A row of the table holds a well-formed command under its own opcode, with `SEL = 0`. -/
theorem plainOpcodes_row {op : Byte} {i : Instr} (h : plainOpcodes.lookup op = some i) :
    i.opcode = op ∧ i.sel = 0 ∧ i.wellFormed = true := by
  have hrows : ∀ row ∈ plainOpcodes, row.2.opcode = row.1 ∧ row.2.sel = 0 ∧ row.2.wellFormed = true := by decide
  obtain ⟨before, after, hsplit, _⟩ := List.lookup_eq_some_iff.1 h
  exact hrows (op, i) (by simp [hsplit])

/-- The table and the two opcodes with a selector are the whole opcode map. -/
theorem not_mem_opcodeMap_of_lookup {op : Byte} (hx : op ≠ opCsumXport) (hd : op ≠ opDeepStart)
    (h : plainOpcodes.lookup op = none) : op ∉ Machine.opcodeMap := by
  have hmap : ∀ o ∈ Machine.opcodeMap, o = opCsumXport ∨ o = opDeepStart ∨ plainOpcodes.lookup o ≠ none := by decide
  intro hmem
  rcases hmap op hmem with he | he | he
  · exact hx he
  · exact hd he
  · exact he h

/-! ### The decoder and the encoder -/

theorem decode_encode {i : Instr} (h : i.wellFormed = true) : decode (encode i) = .cmd i := by
  cases i with
  | csumXport x => cases x <;> rfl
  | deepStart k =>
    cases k with
    | none => cases h
    | _ => rfl
  | _ => rfl

namespace Machine

theorem illegalBits_cmdWord (opcode : Byte) (sel : BitVec 4) :
    illegalBits (cmdWord opcode sel) ↔
      opcode ∉ opcodeMap ∨ (opcode ≠ opCsumXport ∧ opcode ≠ opDeepStart ∧ sel ≠ 0) ∨
        (opcode = opCsumXport ∧ 3 ≤ sel.toNat) ∨ (opcode = opDeepStart ∧ (sel = 0 ∨ 8 ≤ sel.toNat)) := by
  have hrsv : (cmdWord opcode sel).extractLsb' 12 20 = 0 := cmdRsv_cmdWord opcode sel
  have hop : (cmdWord opcode sel).extractLsb' 0 8 = opcode := cmdOpcode_cmdWord opcode sel
  have hsel : (cmdWord opcode sel).extractLsb' 8 4 = sel := cmdSel_cmdWord opcode sel
  unfold illegalBits opCsumXport opDeepStart
  rw [hrsv, hop, hsel, or_iff_right (not_not.2 rfl)]

/-- No command's word is illegal (30_encoding R83). -/
theorem not_illegalBits_encode {i : Instr} (h : i.wellFormed = true) : ¬ illegalBits (encode i) := by
  rw [encode, illegalBits_cmdWord]
  rintro (hmap | ⟨hx, hd, hsel⟩ | ⟨hx, hsel⟩ | ⟨hd, hsel⟩)
  · exact hmap i.opcode_mem_opcodeMap
  · exact hsel (Instr.sel_eq_zero hx hd)
  · obtain ⟨x, rfl⟩ := Instr.exists_of_opcode_csumXport hx
    exact absurd hsel (Nat.not_le.2 x.code_lt)
  · obtain ⟨k, rfl⟩ := Instr.exists_of_opcode_deepStart hd
    rcases hsel with hzero | hbig
    · exact of_decide_eq_true h (Kind.code_eq_zero.1 hzero)
    · exact absurd hbig (Nat.not_le.2 k.code_lt)

/-- Decoding is total (30_encoding R83): a word is the encoding of the command it decodes to, or it has illegal bits
and decodes to none. -/
theorem decode_cases (w : Word) :
    (∃ i : Instr, i.wellFormed = true ∧ w = encode i ∧ decode w = .cmd i) ∨
      (illegalBits w ∧ ∃ why, decode w = .illegal why) := by
  by_cases hrsv : cmdRsv w = 0
  case neg => exact .inr ⟨.inl hrsv, _, if_pos hrsv⟩
  by_cases hx : cmdOpcode w = opCsumXport
  · cases hs : Xport.ofSel (cmdSel w) with
    | some x =>
      exact .inl ⟨.csumXport x, rfl, eq_encode_of_fields hrsv hx (Xport.ofSel_eq_some.1 hs).symm,
        by simp [decode, hrsv, hx, hs]⟩
    | none =>
      exact .inr ⟨.inr (.inr (.inr (.inl ⟨hx, Xport.reserved_of_ofSel hs⟩))), .selReserved,
        by simp [decode, hrsv, hx, hs]⟩
  by_cases hd : cmdOpcode w = opDeepStart
  · have hne : opDeepStart ≠ opCsumXport := by decide
    cases hs : Kind.ofSel (cmdSel w) with
    | some k =>
      obtain ⟨hk, hcode⟩ := Kind.ofSel_eq_some.1 hs
      exact .inl ⟨.deepStart k, decide_eq_true hk, eq_encode_of_fields hrsv hd hcode.symm,
        by simp [decode, hrsv, hd, hne, hs]⟩
    | none =>
      exact .inr ⟨.inr (.inr (.inr (.inr ⟨hd, Kind.reserved_of_ofSel hs⟩))), .selReserved,
        by simp [decode, hrsv, hd, hne, hs]⟩
  cases hl : plainOpcodes.lookup (cmdOpcode w) with
  | none =>
    exact .inr ⟨.inr (.inl (not_mem_opcodeMap_of_lookup hx hd hl)), .unknownOpcode,
      by simp [decode, hrsv, hx, hd, hl]⟩
  | some i =>
    obtain ⟨hop, hzero, hwf⟩ := plainOpcodes_row hl
    by_cases hsel : cmdSel w = 0
    · exact .inl ⟨i, hwf, eq_encode_of_fields hrsv hop.symm (hsel.trans hzero.symm),
        by simp [decode, hrsv, hx, hd, hl, hsel]⟩
    · exact .inr ⟨.inr (.inr (.inl ⟨hx, hd, hsel⟩)), .selNotZero, by simpa [decode, hrsv, hx, hd, hl] using hsel⟩

/-! ### The statements -/

/-- Settles O1: the two answers of the decoder, and its round trip. -/
theorem decodeReadsExactlyTheEncodings : Obligations.DecodeReadsExactlyTheEncodings := by
  refine fun w i => ⟨fun h => ?_, fun ⟨hwf, hw⟩ => hw ▸ decode_encode hwf⟩
  rcases decode_cases w with ⟨j, hwf, hw, hj⟩ | ⟨_, why, hwhy⟩
  · obtain rfl : j = i := Decoded.cmd.inj (hj.symm.trans h)
    exact ⟨hwf, hw⟩
  · rw [hwhy] at h
    cases h

/-- Settles O2: which of the decoder's two answers a word gets is fixed by its bits. -/
theorem illegalWordsChangeOnlyStatus : Obligations.IllegalWordsChangeOnlyStatus := by
  refine ⟨fun i => not_illegalBits_encode, fun s w => ?_⟩
  rcases decode_cases w with ⟨i, hwf, hw, hi⟩ | ⟨hbad, why, hwhy⟩
  · refine ⟨fun hbad => absurd (hw ▸ hbad) (not_illegalBits_encode hwf), fun _ => ⟨i, hwf, hw, ?_⟩⟩
    simp only [runCommand, hi]
  · refine ⟨fun _ => ?_, fun hgood => absurd hbad hgood⟩
    simp only [runCommand, hwhy]
    rfl

/-- Settles O3. -/
theorem writtenWordsDecode : Obligations.WrittenWordsDecode := by
  unfold Obligations.WrittenWordsDecode
  decide

end Machine
end Sys2Proof
end

section
/-! The byte cursor: what each `CUR.*` command does from a position inside the cursor slice, and the laws of 40_cursor
R110. -/

namespace Sys2Proof.Machine

/-! ### Moving the position -/

theorem State.bumpPos_eq (s : State) (n : Nat) :
    s.bumpPos n = { s with cur := { s.cur with pos := s.cur.pos + BitVec.ofNat 32 n } } := by
  simp [State.bumpPos, State.setPos, State.setCur, BitVec.ofNat_add]

/-- `CUR_POS` moved on by `OPN`. -/
theorem State.bumpPos_count (s : State) :
    s.bumpPos s.count = { s with cur := { s.cur with pos := s.cur.pos + s.opr.opn } } := by
  simp [State.bumpPos_eq, State.count]

/-- Moving on by bytes that are left does not wrap around. -/
theorem State.bumpPos_pos {s : State} {n : Nat} (hpos : s.cur.pos.toNat ≤ s.cur.len.toNat) (hn : n ≤ s.curRemaining) :
    (s.bumpPos n).cur.pos.toNat = s.cur.pos.toNat + n := by
  have hlen := s.cur.len.isLt
  unfold State.curRemaining at hn
  exact Nat.mod_eq_of_lt (by omega)

/-- The slice of the next `OPN` bytes starts at `CUR_BASE + CUR_POS` (40_cursor R104). -/
theorem State.setNextSlice_eq (s : State) :
    s.setNextSlice = { s with res := { s.res with roff := s.cur.base + s.cur.pos, rlen := s.opr.opn } } := by
  simp [State.setNextSlice, State.setSlice, State.setRes, State.curAddr, BitVec.ofNat_add]

/-! ### The checks of `CUR.RD*`, `CUR.RDB` and `CUR.PEEK` -/

section
variable {P : Params} {s : State} {n : Nat}

theorem cursorCommand_eof (hin : s.cursorOk P) (hn : s.curRemaining < n) (effect : State) :
    cursorCommand P s n effect = s.onlyStatus .unexpectedEof := by
  rw [cursorCommand, if_neg (not_not.2 hin), if_pos hn, State.fail_eq_onlyStatus]

theorem cursorCommand_done (hin : s.cursorOk P) (hn : n ≤ s.curRemaining) (effect : State) :
    cursorCommand P s n effect = effect := by
  rw [cursorCommand, if_neg (not_not.2 hin), if_neg (Nat.not_lt.2 hn)]

/-- The command succeeds only when both checks pass (40_cursor R108). -/
theorem cursorCommand_succeeds {effect : State} (h : (cursorCommand P s n effect).status.err = false) :
    s.cursorOk P ∧ n ≤ s.curRemaining ∧ cursorCommand P s n effect = effect := by
  rcases cursorCommand_cases P s n effect with ⟨_, he⟩ | ⟨_, _, he⟩ | hdone
  · rw [he] at h; cases h
  · rw [he] at h; cases h
  · exact hdone

end

theorem curSkipCmd_done {s : State} (hn : s.count ≤ s.curRemaining) :
    curSkipCmd s = (s.bumpPos s.count).succeed :=
  if_neg (Nat.not_lt.2 hn)

/-! ### A read that succeeds -/

/-- The state after a `w`-bit read that succeeds (40_cursor R101 to R103). -/
def State.readDone (w : Nat) (s : State) : State :=
  ((s.setRval ((memRead s.byteAt w s.curAddr).setWidth 32)).bumpPos (w / 8)).succeed

theorem State.readDone_byteAt (w : Nat) (s : State) : (s.readDone w).byteAt = s.byteAt :=
  funext fun _ => State.byteAt_congr rfl rfl _

/-- `RVAL` after a read of `n` bytes is their big-endian value (40_cursor R101 to R103). -/
theorem State.readDone_rval {n : Nat} (hn : n ≤ 4) (s : State) :
    (s.readDone (8 * n)).res.rval.toNat = beValue (bytesFrom s.byteAt s.curAddr n) := by
  rw [← memRead_toNat]
  exact BitVec.toNat_setWidth_of_le (by omega)

theorem State.readDone_eq (w : Nat) (s : State) :
    s.readDone w =
      { s with res := { s.res with rval := (memRead s.byteAt w s.curAddr).setWidth 32 },
               cur := { s.cur with pos := s.cur.pos + BitVec.ofNat 32 (w / 8) }, status := Status.okay } := by
  rw [State.readDone, State.bumpPos_eq]
  rfl

theorem State.readDone_cur (w : Nat) (s : State) :
    (s.readDone w).cur = { s.cur with pos := s.cur.pos + BitVec.ofNat 32 (w / 8) } := by
  rw [State.readDone_eq]

/-- The reads of 8, 16 and 32 bits in the terms of 40_cursor R101 to R103. -/
theorem State.readDone_byte (s : State) : s.readDone 8 =
    { s with res := { s.res with rval := (0 : BitVec 24) ++ s.byteAt s.curAddr },
             cur := { s.cur with pos := s.cur.pos + 1 }, status := Status.okay } := by
  have hrval : (s.byteAt s.curAddr).setWidth 32 = (0 : BitVec 24) ++ s.byteAt s.curAddr := setWidth_eq_zero_append _
  rw [State.readDone_eq, memRead_8, hrval]
  rfl

theorem State.readDone_half (s : State) : s.readDone 16 =
    { s with res := { s.res with rval := (0 : Half) ++ s.byteAt s.curAddr ++ s.byteAt (s.curAddr + 1) },
             cur := { s.cur with pos := s.cur.pos + 2 }, status := Status.okay } := by
  have hrval : (s.be16 s.curAddr).setWidth 32 = (0 : Half) ++ s.byteAt s.curAddr ++ s.byteAt (s.curAddr + 1) := by
    rw [State.be16, setWidth_eq_zero_append (k := 16) (s.byteAt s.curAddr ++ s.byteAt (s.curAddr + 1))]
    exact BitVec.append_assoc.symm
  rw [State.readDone_eq, State.memRead_be16, hrval]
  rfl

theorem State.readDone_word (s : State) : s.readDone 32 =
    { s with res := { s.res with rval := s.be32 s.curAddr },
             cur := { s.cur with pos := s.cur.pos + 4 }, status := Status.okay } := by
  rw [State.readDone_eq, State.memRead_be32, BitVec.setWidth_eq]
  rfl

/-! ### Reading on -/

/-- `n` bytes can be read from the cursor: the checks of 40_cursor R108 pass and the position is inside the slice. -/
structure State.CanRead (s : State) (n : Nat) : Prop where
  inside : s.cursorOk build
  pos : s.cur.pos.toNat ≤ s.cur.len.toNat
  left : n ≤ s.curRemaining

section
variable {s : State} {n : Nat} (h : s.CanRead (n + 1))
include h

theorem State.CanRead.exec_curRd8 : exec .curRd8 s = .next (s.readDone 8) :=
  congrArg Host.Outcome.next (cursorCommand_done h.inside ((Nat.le_add_left 1 n).trans h.left) _)

theorem State.CanRead.readDone_pos : (s.readDone 8).cur.pos.toNat = s.cur.pos.toNat + 1 :=
  State.bumpPos_pos h.pos ((Nat.le_add_left 1 n).trans h.left)

theorem State.CanRead.curAddr_readDone : (s.readDone 8).curAddr = s.curAddr + 1 := by
  rw [State.curAddr, h.readDone_pos]
  rfl

/-- After one byte the others can still be read. -/
theorem State.CanRead.next : (s.readDone 8).CanRead n := by
  have hleft := h.left
  have hpos := h.readDone_pos
  have hlen : (s.readDone 8).cur.len = s.cur.len := rfl
  unfold State.curRemaining at hleft
  refine ⟨h.inside, ?_, ?_⟩
  · rw [hpos, hlen]; omega
  · rw [State.curRemaining, hpos, hlen]; omega

end

/-- `RVAL` after one byte. -/
theorem State.readDone_rval_byte (s : State) : (s.readDone 8).res.rval.toNat = (s.byteAt s.curAddr).toNat := by
  rw [State.readDone_rval (n := 1) (by decide)]
  simp [bytesFrom, beValue]

/-! ### The cursor after any command -/

/-- The cursor after the shared checks, for an effect that moves the cursor on by the checked count. -/
theorem cursorCommand_cur {P : Params} {s effect : State} {n : Nat} (heffect : effect.cur = (s.bumpPos n).cur) :
    (cursorCommand P s n effect).cur = s.cur ∨
      n ≤ s.curRemaining ∧ (cursorCommand P s n effect).cur = (s.bumpPos n).cur := by
  rcases cursorCommand_cases P s n effect with ⟨_, he⟩ | ⟨_, _, he⟩ | ⟨_, hn, he⟩ <;> rw [he]
  · exact .inl rfl
  · exact .inl rfl
  · exact .inr ⟨hn, heffect⟩

theorem curReadCmd_cur {P : Params} (s : State) (w : Nat) :
    (curReadCmd P w s).cur = s.cur ∨ w / 8 ≤ s.curRemaining ∧ (curReadCmd P w s).cur = (s.bumpPos (w / 8)).cur :=
  cursorCommand_cur (effect := s.readDone w) rfl

theorem curRdbCmd_cur {P : Params} (s : State) :
    (curRdbCmd P s).cur = s.cur ∨ s.count ≤ s.curRemaining ∧ (curRdbCmd P s).cur = (s.bumpPos s.count).cur :=
  cursorCommand_cur (effect := (s.setNextSlice.bumpPos s.count).succeed) rfl

/-- Everything a command can do to the cursor: leave it, open it, clear it, or move it on by bytes that are left
(10_state R35, 40_cursor R110). -/
theorem exec_cur_cases {i : Instr} {s t : State} (ht : exec i s = .next t) :
    t.cur = s.cur ∨
      (i = .curOpen ∧ t.cur = { base := s.opr.winOff, len := s.opr.winLen, pos := 0 }) ∨
      (i = .clear ∧ t.cur = CursorRegs.reset) ∨
      ∃ n, n ≤ s.curRemaining ∧ t.cur = (s.bumpPos n).cur := by
  by_cases hw : i.writesCursor = true
  case neg => exact .inl ((exec_keeps ht).cursor (Bool.eq_false_of_not_eq_true hw))
  cases i with
  | curOpen =>
    cases ht
    rcases curOpenCmd_cases build s with ⟨_, he⟩ | ⟨_, he⟩ <;> rw [he]
    · exact .inl rfl
    · exact .inr (.inl ⟨rfl, rfl⟩)
  | curRd8 | curRd16 | curRd32 => cases ht; exact (curReadCmd_cur s _).imp_right fun hmoved => .inr (.inr ⟨_, hmoved⟩)
  | curRdb => cases ht; exact (curRdbCmd_cur s).imp_right fun hmoved => .inr (.inr ⟨_, hmoved⟩)
  | curSkip =>
    cases ht
    rcases curSkipCmd_cases s with ⟨_, he⟩ | ⟨hn, he⟩ <;> rw [he]
    · exact .inl rfl
    · exact .inr (.inr (.inr ⟨_, hn, rfl⟩))
  | clear => cases ht; exact .inr (.inr (.inl ⟨rfl, rfl⟩))
  | _ => cases hw

section
variable {i : Instr} {s t : State} (hpos : s.cur.pos.toNat ≤ s.cur.len.toNat) (ht : exec i s = .next t)
include hpos ht

/-- 40_cursor R110 (a). -/
theorem exec_keeps_pos_le_len : t.cur.pos.toNat ≤ t.cur.len.toNat := by
  rcases exec_cur_cases ht with he | ⟨_, he⟩ | ⟨_, he⟩ | ⟨n, hn, he⟩ <;> rw [he]
  · exact hpos
  · exact Nat.zero_le _
  · exact Nat.zero_le _
  · have hlen : (s.bumpPos n).cur.len = s.cur.len := rfl
    rw [State.bumpPos_pos hpos hn, hlen]
    unfold State.curRemaining at hn
    omega

/-- 40_cursor R110 (b). -/
theorem exec_pos_mono (hopen : i ≠ .curOpen) (hclear : i ≠ .clear) : s.cur.pos.toNat ≤ t.cur.pos.toNat := by
  rcases exec_cur_cases ht with he | ⟨hi, _⟩ | ⟨hi, _⟩ | ⟨n, hn, he⟩
  · rw [he]
  · exact absurd hi hopen
  · exact absurd hi hclear
  · rw [he, State.bumpPos_pos hpos hn]
    exact Nat.le_add_right _ _

end

/-! ### The bytes a cursor command reads (40_cursor R110 (c)) -/

/-- The memory `m` holds the bytes of `s` in the cursor slice below `BUF_LEN`. -/
def State.SameInCursor (s : State) (m : Memory) : Prop :=
  ∀ a, s.cur.base.toNat ≤ a → a < s.cur.base.toNat + s.cur.len.toNat → a < s.opr.bufLen.toNat →
    (s.setMem m).byteAt a = s.byteAt a

/-- A read that passes its checks reads inside the cursor slice and below `BUF_LEN`. -/
theorem State.SameInCursor.memRead {s : State} {m : Memory} {P : Params} {w : Nat} (h : s.SameInCursor m)
    (hin : s.cursorOk P) (hn : w / 8 ≤ s.curRemaining) :
    memRead (s.setMem m).byteAt w s.curAddr = memRead s.byteAt w s.curAddr :=
  memRead_congr fun x hx hx' => by
    have hend := hin.1
    unfold State.curAddr at hx hx'
    unfold State.curRemaining at hn
    exact h x (by omega) (by omega) (by omega)

theorem State.SameInCursor.curReadCmd {s : State} {m : Memory} (h : s.SameInCursor m) (P : Params) (w : Nat) :
    curReadCmd P w (s.setMem m) = (curReadCmd P w s).setMem m :=
  cursorCommand_setMem fun hin hn => by
    rw [← h.memRead hin hn]
    rfl

theorem State.SameInCursor.exec {s : State} {m : Memory} (h : s.SameInCursor m) {i : Instr}
    (hi : i ∈ [Instr.curOpen, .curRd8, .curRd16, .curRd32, .curRdb, .curPeek, .curRem, .curSkip]) :
    exec i (s.setMem m) = mapNext (State.setMem · m) (exec i s) := by
  cases i with
  | curOpen => exact congrArg Host.Outcome.next curOpenCmd_setMem
  | curRd8 | curRd16 | curRd32 => exact congrArg Host.Outcome.next (h.curReadCmd build _)
  | curRdb | curPeek => exact congrArg Host.Outcome.next (cursorCommand_setMem fun _ _ => rfl)
  | curRem => rfl
  | curSkip => exact congrArg Host.Outcome.next curSkipCmd_setMem
  | _ => simp at hi

/-! ### Long reads as byte reads (40_cursor R110 (d)) -/

section
variable {s t : State} (hpos : s.cur.pos.toNat ≤ s.cur.len.toNat) (hok : t.status.err = false)
include hpos hok

/-- A read of `n` bytes that succeeds had `n` bytes left. -/
theorem curReadCmd_succeeds {n : Nat} (ht : Host.Outcome.next (curReadCmd build (8 * n) s) = (.next t : Outcome)) :
    s.CanRead n ∧ t = s.readDone (8 * n) := by
  cases ht
  have hn : 8 * n / 8 = n := by omega
  obtain ⟨hin, hleft, he⟩ := cursorCommand_succeeds hok
  exact ⟨⟨hin, hpos, hn ▸ hleft⟩, he⟩

theorem curRd16_eq_two_curRd8 (ht : exec .curRd16 s = .next t) :
    ∃ u v : State, exec .curRd8 s = .next u ∧ exec .curRd8 u = .next v ∧
      t.res.rval.toNat = 256 * u.res.rval.toNat + v.res.rval.toNat ∧ t.cur = v.cur := by
  obtain ⟨h, rfl⟩ := curReadCmd_succeeds (n := 2) hpos hok ht
  refine ⟨_, _, h.exec_curRd8, h.next.exec_curRd8, ?_, ?_⟩
  · rw [State.readDone_rval (by decide)]
    simp only [State.readDone_rval_byte, State.readDone_byteAt, h.curAddr_readDone, bytesFrom, beValue,
      List.foldl_cons, List.foldl_nil]
    omega
  · simp only [State.readDone_cur, BitVec.add_assoc]
    rfl

theorem curRd32_eq_four_curRd8 (ht : exec .curRd32 s = .next t) :
    ∃ u v x y : State, exec .curRd8 s = .next u ∧ exec .curRd8 u = .next v ∧ exec .curRd8 v = .next x ∧
      exec .curRd8 x = .next y ∧
      t.res.rval.toNat =
        256 * (256 * (256 * u.res.rval.toNat + v.res.rval.toNat) + x.res.rval.toNat) + y.res.rval.toNat ∧
      t.cur = y.cur := by
  obtain ⟨h, rfl⟩ := curReadCmd_succeeds (n := 4) hpos hok ht
  refine ⟨_, _, _, _, h.exec_curRd8, h.next.exec_curRd8, h.next.next.exec_curRd8, h.next.next.next.exec_curRd8, ?_, ?_⟩
  · rw [State.readDone_rval (by decide)]
    simp only [State.readDone_rval_byte, State.readDone_byteAt, h.next.next.curAddr_readDone,
      h.next.curAddr_readDone, h.curAddr_readDone, bytesFrom, beValue, List.foldl_cons, List.foldl_nil]
    omega
  · simp only [State.readDone_cur, BitVec.add_assoc]
    rfl

end

/-- 40_cursor R110 (e). -/
theorem curRdb_moves_as_curSkip {s t : State} (hok : t.status.err = false) (ht : exec .curRdb s = .next t) :
    ∃ u v : State, exec .curSkip s = .next u ∧ exec .curPeek s = .next v ∧ t.cur = u.cur ∧
      t.res.roff = v.res.roff ∧ t.res.rlen = v.res.rlen := by
  cases ht
  obtain ⟨hin, hleft, he⟩ := cursorCommand_succeeds hok
  have hskip : exec .curSkip s = .next (s.bumpPos s.count).succeed :=
    congrArg Host.Outcome.next (curSkipCmd_done hleft)
  have hpeek : exec .curPeek s = .next s.setNextSlice.succeed :=
    congrArg Host.Outcome.next (cursorCommand_done hin hleft _)
  have hrdb : curRdbCmd build s = (s.setNextSlice.bumpPos s.count).succeed := he
  rw [hrdb]
  exact ⟨_, _, hskip, hpeek, rfl, rfl, rfl⟩

/-! ### The statements -/

/-- Settles O31: the five laws, one lemma each. -/
theorem cursorLaws : Obligations.CursorLaws := by
  refine fun s hpos => ⟨fun i t ht => exec_keeps_pos_le_len hpos ht, fun i t ht => exec_pos_mono hpos ht,
    fun i hi m hm t ht => ?_, fun t ht hok => curRd16_eq_two_curRd8 hpos hok ht,
    fun t ht hok => curRd32_eq_four_curRd8 hpos hok ht, fun t ht hok => curRdb_moves_as_curSkip hok ht⟩
  have hsame : s.SameInCursor m := hm
  have hexec := hsame.exec hi
  rw [ht] at hexec
  exact hexec

/-- Settles O27: the shared checks of the reads, then each read's own state. -/
theorem cursorReadsAreBigEndian : Obligations.CursorReadsAreBigEndian := by
  refine ⟨decode_encode (i := .curRd8) rfl, decode_encode (i := .curRd16) rfl, decode_encode (i := .curRd32) rfl,
    fun s _ => ⟨fun hout => ?_, fun hin => ?_⟩⟩
  · have hbad : ∀ w, curReadCmd build w s = s.onlyStatus .badWindow := fun w => cursorCommand_badWindow hout _ _
    exact ⟨congrArg Host.Outcome.next (hbad 8), congrArg Host.Outcome.next (hbad 16),
      congrArg Host.Outcome.next (hbad 32)⟩
  · have hdone : ∀ w, w / 8 ≤ s.curRemaining → curReadCmd build w s = s.readDone w :=
      fun w hn => cursorCommand_done hin hn _
    have heof : ∀ w, s.curRemaining < w / 8 → curReadCmd build w s = s.onlyStatus .unexpectedEof :=
      fun w hn => cursorCommand_eof hin hn _
    exact ⟨fun hn => congrArg Host.Outcome.next ((hdone 8 hn).trans s.readDone_byte),
      fun hn => congrArg Host.Outcome.next ((hdone 16 hn).trans s.readDone_half),
      fun hn => congrArg Host.Outcome.next ((hdone 32 hn).trans s.readDone_word),
      fun hn => congrArg Host.Outcome.next (heof 8 hn), fun hn => congrArg Host.Outcome.next (heof 16 hn),
      fun hn => congrArg Host.Outcome.next (heof 32 hn)⟩

/-- Settles O26. -/
theorem curOpenOpensTheWindow : Obligations.CurOpenOpensTheWindow := by
  refine ⟨decode_encode (i := .curOpen) rfl, fun s => ⟨fun hout => ?_, fun hend hbuf => ?_⟩⟩
  · exact congrArg Host.Outcome.next (curOpenCmd_badWindow hout)
  · rcases curOpenCmd_cases build s with ⟨hout, _⟩ | ⟨_, he⟩
    · exact absurd ⟨hend, hbuf⟩ hout
    · exact congrArg Host.Outcome.next he

/-- Settles O28: the shared checks, then the slice and the move past it. -/
theorem curRdbTakesTheNextSlice : Obligations.CurRdbTakesTheNextSlice := by
  refine ⟨decode_encode (i := .curRdb) rfl, fun s _ => ⟨fun hout => ?_, fun hin hn => ?_, fun hin hn => ?_⟩⟩
  · exact congrArg Host.Outcome.next (cursorCommand_badWindow hout _ _)
  · have hmoved : s.setNextSlice.bumpPos s.count = _ := State.bumpPos_count s.setNextSlice
    have hdone : curRdbCmd build s = (s.setNextSlice.bumpPos s.count).succeed := cursorCommand_done hin hn _
    rw [hmoved, State.setNextSlice_eq] at hdone
    exact congrArg Host.Outcome.next hdone
  · exact congrArg Host.Outcome.next (cursorCommand_eof hin hn _)

/-- Settles O29: the shared checks, then the slice alone. -/
theorem curPeekConsumesNothing : Obligations.CurPeekConsumesNothing := by
  refine ⟨decode_encode (i := .curPeek) rfl, fun s _ => ⟨fun hout => ?_, fun hin hn => ?_, fun hin hn => ?_⟩⟩
  · exact congrArg Host.Outcome.next (cursorCommand_badWindow hout _ _)
  · have hdone : curPeekCmd build s = s.setNextSlice.succeed := cursorCommand_done hin hn _
    rw [State.setNextSlice_eq] at hdone
    exact congrArg Host.Outcome.next hdone
  · exact congrArg Host.Outcome.next (cursorCommand_eof hin hn _)

/-- Settles O30: the bytes left as a difference of registers that does not wrap, and the bound of `CUR.SKIP`. -/
theorem curRemAndSkipCountTheBytesLeft : Obligations.CurRemAndSkipCountTheBytesLeft := by
  refine ⟨decode_encode (i := .curRem) rfl, decode_encode (i := .curSkip) rfl,
    fun s hpos => ⟨?_, fun hn => ?_, fun hn => ?_⟩⟩
  · have hleft : BitVec.ofNat 32 s.curRemaining = s.cur.len - s.cur.pos := by
      unfold State.curRemaining
      bv_omega
    have hdone : curRemCmd s = (s.setRval (s.cur.len - s.cur.pos)).succeed := by rw [curRemCmd, hleft]
    exact congrArg Host.Outcome.next hdone
  · have hdone := curSkipCmd_done hn
    rw [State.bumpPos_count] at hdone
    exact congrArg Host.Outcome.next hdone
  · rcases curSkipCmd_cases s with ⟨_, he⟩ | ⟨hle, _⟩
    · exact congrArg Host.Outcome.next he
    · exact absurd hle (Nat.not_le.2 hn)

end Sys2Proof.Machine
end

section
/-! The checksum engine: folding as residues modulo 0xFFFF, the words of a byte list, the checksum field, and the two
commands (41_checksum R120 to R130). -/

namespace Sys2Proof.Machine

/-! ### `Fold16` and residues modulo 0xFFFF (41_checksum R120) -/

/-- `m` is what folding may make of `n`: 16 bits, the same residue, and 0 only for 0. -/
structure FoldsTo (n m : Nat) : Prop where
  le : m ≤ 0xFFFF
  zero_iff : m = 0 ↔ n = 0
  mod_eq : m % 0xFFFF = n % 0xFFFF

/-- Residue 0 is the only one with two representatives up to 0xFFFF, and `zero_iff` tells them apart. -/
theorem FoldsTo.unique {n m k : Nat} (hm : FoldsTo n m) (hk : FoldsTo n k) : m = k := by
  have hzero : m = 0 ↔ k = 0 := hm.zero_iff.trans hk.zero_iff.symm
  have hmod : m % 0xFFFF = k % 0xFFFF := hm.mod_eq.trans hk.mod_eq.symm
  have hm16 := hm.le
  have hk16 := hk.le
  omega

theorem FoldsTo.of_le {n : Nat} (h : n ≤ 0xFFFF) : FoldsTo n n := ⟨h, Iff.rfl, rfl⟩

theorem FoldsTo.congr {a b m : Nat} (h : FoldsTo a m) (hzero : a = 0 ↔ b = 0) (hmod : a % 0xFFFF = b % 0xFFFF) :
    FoldsTo b m :=
  ⟨h.le, h.zero_iff.trans hzero, h.mod_eq.trans hmod⟩

theorem foldOnce_eq_zero {n : Nat} : foldOnce n = 0 ↔ n = 0 := by
  unfold foldOnce
  omega

/-- 0x10000 is 1 modulo 0xFFFF, so the carries fold back in. -/
theorem foldOnce_mod (n : Nat) : foldOnce n % 0xFFFF = n % 0xFFFF := by
  unfold foldOnce
  omega

theorem foldOnce_lt {n : Nat} (h : 0xFFFF < n) : foldOnce n < n := by
  unfold foldOnce
  omega

theorem foldRounds_foldsTo {rounds n : Nat} (h : n ≤ rounds) : FoldsTo n (foldRounds rounds n) := by
  induction rounds generalizing n with
  | zero => exact .of_le (by omega)
  | succ rounds ih =>
    rw [foldRounds]
    split
    case isTrue hbig =>
      have hlt := foldOnce_lt hbig
      exact (ih (by omega)).congr foldOnce_eq_zero (foldOnce_mod n)
    case isFalse hsmall => exact .of_le (Nat.not_lt.1 hsmall)

theorem fold16_foldsTo (n : Nat) : FoldsTo n (fold16 n) := foldRounds_foldsTo le_rfl

theorem fold16_le (n : Nat) : fold16 n ≤ 0xFFFF := (fold16_foldsTo n).le

theorem fold16_eq_zero {n : Nat} : fold16 n = 0 ↔ n = 0 := (fold16_foldsTo n).zero_iff

theorem fold16_mod (n : Nat) : fold16 n % 0xFFFF = n % 0xFFFF := (fold16_foldsTo n).mod_eq

theorem fold16_of_le {n : Nat} (h : n ≤ 0xFFFF) : fold16 n = n := (fold16_foldsTo n).unique (.of_le h)

theorem fold16_congr {a b : Nat} (hzero : a = 0 ↔ b = 0) (hmod : a % 0xFFFF = b % 0xFFFF) : fold16 a = fold16 b :=
  ((fold16_foldsTo a).congr hzero hmod).unique (fold16_foldsTo b)

theorem fold16_foldOnce (n : Nat) : fold16 (foldOnce n) = fold16 n := fold16_congr foldOnce_eq_zero (foldOnce_mod n)

theorem fold16_eq_loop (n : Nat) :
    fold16 n = if n > 0xFFFF then fold16 (n % 0x10000 + n / 0x10000) else n := by
  split
  case isTrue => exact (fold16_foldOnce n).symm
  case isFalse hsmall => exact fold16_of_le (Nat.not_lt.1 hsmall)

/-- An addend may be folded before it is added. -/
theorem fold16_fold16_add (a b : Nat) : fold16 (fold16 a + b) = fold16 (a + b) := by
  have hzero := fold16_eq_zero (n := a)
  have hmod := fold16_mod a
  exact fold16_congr (by omega) (by omega)

/-! ### The sum of the words -/

/-- The sum of the words on unbounded naturals. -/
def wordSum (ws : List Half) : Nat := (ws.map BitVec.toNat).sum

theorem onesSum16_eq (ws : List Half) : onesSum16 ws = fold16 (wordSum ws) := rfl

@[simp] theorem wordSum_nil : wordSum [] = 0 := rfl

@[simp] theorem wordSum_cons (w : Half) (ws : List Half) : wordSum (w :: ws) = w.toNat + wordSum ws := by
  simp [wordSum]

@[simp] theorem wordSum_append (ws vs : List Half) : wordSum (ws ++ vs) = wordSum ws + wordSum vs := by
  simp [wordSum]

theorem wordSum_perm {ws vs : List Half} (h : ws.Perm vs) : wordSum ws = wordSum vs := (h.map _).sum_eq

theorem wordSum_eq_zero {ws : List Half} : wordSum ws = 0 ↔ ∀ w ∈ ws, w = 0 := by
  simp [wordSum, List.sum_eq_zero_iff, BitVec.toNat_eq]

theorem wordSum_set {ws : List Half} {i : Nat} {w : Half} (v : Half) (h : ws[i]? = some w) :
    wordSum (ws.set i v) + w.toNat = wordSum ws + v.toNat := by
  induction ws generalizing i with
  | nil => cases h
  | cons u ws ih =>
    cases i with
    | zero =>
      obtain rfl : u = w := Option.some.inj h
      simp only [List.set_cons_zero, wordSum_cons]
      omega
    | succ i =>
      have htail := ih h
      simp only [List.set_cons_succ, wordSum_cons]
      omega

theorem foldl_fold16_eq (ws : List Half) {acc : Nat} (h : acc ≤ 0xFFFF) :
    ws.foldl (fun acc w => fold16 (acc + w.toNat)) acc = fold16 (acc + wordSum ws) := by
  induction ws generalizing acc with
  | nil => exact (fold16_of_le h).symm
  | cons w ws ih =>
    calc (w :: ws).foldl (fun acc w => fold16 (acc + w.toNat)) acc
      _ = fold16 (fold16 (acc + w.toNat) + wordSum ws) := ih (fold16_le _)
      _ = fold16 (acc + w.toNat + wordSum ws) := fold16_fold16_add _ _
      _ = fold16 (acc + wordSum (w :: ws)) := by rw [wordSum_cons, Nat.add_assoc]

/-- Settles O32: both sides of each equation fold numbers of one residue modulo 0xFFFF that are 0 together. -/
theorem onesSumFoldsInAnyOrder : Obligations.OnesSumFoldsInAnyOrder := by
  refine ⟨fold16_eq_loop, fun n => ⟨fold16_le n, fold16_eq_zero, fun hn => ⟨?_, fold16_mod n⟩⟩,
    fun ws => ⟨rfl, ?_⟩, fun ws vs hperm => congrArg fold16 (wordSum_perm hperm)⟩
  · exact Nat.one_le_iff_ne_zero.2 (mt fold16_eq_zero.1 hn)
  · rw [foldl_fold16_eq ws (Nat.zero_le _), Nat.zero_add, onesSum16_eq]

/-! ### The words of a byte list (41_checksum R121, R123) -/

theorem checksumWords_length (bs : List Byte) : (checksumWords bs).length = (bs.length + 1) / 2 := by
  induction bs using checksumWords.induct with
  | case1 => rfl
  | case2 b => simp [checksumWords]
  | case3 b c rest ih =>
    simp only [checksumWords, List.length_cons, ih]
    omega

theorem checksumWords_getElem? (bs : List Byte) {i : Nat} (hi : i < (bs.length + 1) / 2) :
    (checksumWords bs)[i]? = some (bs.getD (2 * i) 0 ++ bs.getD (2 * i + 1) 0) := by
  induction bs using checksumWords.induct generalizing i with
  | case1 => cases hi
  | case2 b =>
    simp only [List.length_singleton] at hi
    obtain rfl : i = 0 := by omega
    rfl
  | case3 b c rest ih =>
    cases i with
    | zero => rfl
    | succ i =>
      simp only [List.length_cons] at hi
      exact ih (by omega)

/-- Settles O33, by the recursion of `Words`, two bytes at a time. -/
theorem checksumWordsPairTheBytes : Obligations.ChecksumWordsPairTheBytes :=
  fun bs => ⟨checksumWords_length bs, fun _ hi => checksumWords_getElem? bs hi⟩

theorem wordSum_checksumWords_pair (b c : Byte) (rest : List Byte) :
    wordSum (checksumWords (b :: c :: rest)) = (b ++ c).toNat + wordSum (checksumWords rest) :=
  wordSum_cons _ _

theorem wordSum_checksumWords_zeros : ∀ k, wordSum (checksumWords (List.replicate k 0)) = 0
  | 0 => rfl
  | 1 => rfl
  | k + 2 => by
    rw [List.replicate_succ, List.replicate_succ, wordSum_checksumWords_pair, wordSum_checksumWords_zeros k]
    rfl

/-- A zero byte after the last one pads the last word as `Words` does, or adds words that are 0. -/
theorem wordSum_append_zeros (bs : List Byte) (k : Nat) :
    wordSum (checksumWords (bs ++ List.replicate k 0)) = wordSum (checksumWords bs) := by
  induction bs using checksumWords.induct with
  | case1 => exact wordSum_checksumWords_zeros k
  | case2 b =>
    cases k with
    | zero => rfl
    | succ k =>
      rw [List.replicate_succ, List.singleton_append, wordSum_checksumWords_pair, wordSum_checksumWords_zeros]
      rfl
  | case3 b c rest ih =>
    rw [List.cons_append, List.cons_append, wordSum_checksumWords_pair, wordSum_checksumWords_pair, ih]

/-- An even field is one word of the list, so zeroing it takes its value out of the sum. -/
theorem wordSum_zeroField {bs : List Byte} {p : Nat} (heven : p % 2 = 0) (hlen : p + 2 ≤ bs.length) :
    wordSum (checksumWords bs) = wordSum (checksumWords (zeroField bs p)) + (storedField bs p).toNat := by
  induction bs using checksumWords.induct generalizing p with
  | case1 => simp at hlen
  | case2 b => simp at hlen
  | case3 b c rest ih =>
    match p with
    | 0 => simp [zeroField, storedField, checksumWords, Nat.add_comm]
    | 1 => cases heven
    | p + 2 =>
      simp only [List.length_cons] at hlen
      have htail := ih (p := p) (by omega) (by omega)
      have hzero : zeroField (b :: c :: rest) (p + 2) = b :: c :: zeroField rest p := rfl
      have hstored : storedField (b :: c :: rest) (p + 2) = storedField rest p := rfl
      rw [hzero, hstored, wordSum_checksumWords_pair, wordSum_checksumWords_pair, htail, Nat.add_assoc]

/-! ### The laws of the checksum (41_checksum R122, R130) -/

theorem inetCsum_toNat (ws : List Half) : (inetCsum ws).toNat = 0xFFFF - onesSum16 ws :=
  Nat.mod_eq_of_lt (by omega)

theorem inetCsum_congr {ws vs : List Half} (h : wordSum ws = wordSum vs) : inetCsum ws = inetCsum vs := by
  rw [inetCsum, inetCsum, onesSum16_eq, onesSum16_eq, h]

/-- The checksum keeps all of the sum. -/
theorem inetCsum_inj {ws vs : List Half} : inetCsum ws = inetCsum vs ↔ onesSum16 ws = onesSum16 vs := by
  have hws := fold16_le (wordSum ws)
  have hvs := fold16_le (wordSum vs)
  rw [← onesSum16_eq] at hws hvs
  rw [BitVec.toNat_eq, inetCsum_toNat, inetCsum_toNat]
  omega

theorem onesSum16_eq_zero {ws : List Half} : onesSum16 ws = 0 ↔ ∀ w ∈ ws, w = 0 :=
  fold16_eq_zero.trans wordSum_eq_zero

theorem inetCsum_eq_allOnes {ws : List Half} : inetCsum ws = 0xFFFF ↔ ∀ w ∈ ws, w = 0 :=
  (inetCsum_inj (vs := [])).trans onesSum16_eq_zero

/-- The sum over the unmodified bytes, from the sum over the other words and the stored field. -/
theorem onesSum16_zeroField (ph : List Half) {bs : List Byte} {p : Nat} (heven : p % 2 = 0)
    (hlen : p + 2 ≤ bs.length) :
    onesSum16 (ph ++ checksumWords bs) =
      fold16 (onesSum16 (ph ++ checksumWords (zeroField bs p)) + (storedField bs p).toNat) := by
  rw [onesSum16_eq, onesSum16_eq, fold16_fold16_add, wordSum_append, wordSum_append, wordSum_zeroField heven hlen,
    Nat.add_assoc]

section
variable {ws : List Half} {stored : Half}

/-- A stored checksum makes the sum all ones. -/
theorem fold16_add_inetCsum : fold16 (onesSum16 ws + (inetCsum ws).toNat) = 0xFFFF := by
  have hle : onesSum16 ws ≤ 0xFFFF := fold16_le _
  rw [inetCsum_toNat, Nat.add_sub_cancel' hle]
  exact fold16_of_le le_rfl

/-- Of two 16-bit numbers whose folded sum is all ones, the one is the complement of the other or both are 0xFFFF. -/
theorem stored_eq_or_of_fold16 (h : fold16 (onesSum16 ws + stored.toNat) = 0xFFFF) :
    stored = inetCsum ws ∨ stored = 0xFFFF ∧ inetCsum ws = 0 := by
  have hle : onesSum16 ws ≤ 0xFFFF := fold16_le _
  have hlt := stored.isLt
  have hzero := fold16_eq_zero (n := onesSum16 ws + stored.toNat)
  have hmod := fold16_mod (onesSum16 ws + stored.toNat)
  simp only [BitVec.toNat_eq, inetCsum_toNat]
  have h1 : (0xFFFF : Half).toNat = 0xFFFF := rfl
  have h0 : (0 : Half).toNat = 0 := rfl
  omega

theorem stored_ne_iff_of_fold16 (h : fold16 (onesSum16 ws + stored.toNat) = 0xFFFF) :
    stored ≠ inetCsum ws ↔ stored = 0xFFFF ∧ inetCsum ws = 0 := by
  refine ⟨fun hne => (stored_eq_or_of_fold16 h).resolve_left hne, ?_⟩
  rintro ⟨hs, hc⟩ heq
  rw [hs, hc] at heq
  exact absurd heq (by decide)

end

/-- Equal checksums mean equal residues modulo 0xFFFF, and the changed word moves the residue. -/
theorem inetCsum_set_ne {ws : List Half} {i : Nat} {v w : Half} (hw : ws[i]? = some w)
    (hdvd : ¬ (0xFFFF : Int) ∣ (v.toNat : Int) - w.toNat) : inetCsum (ws.set i v) ≠ inetCsum ws := by
  intro heq
  have hsum := wordSum_set v hw
  have hmod : wordSum (ws.set i v) % 0xFFFF = wordSum ws % 0xFFFF := by
    rw [← fold16_mod, ← fold16_mod (wordSum ws), ← onesSum16_eq, ← onesSum16_eq, inetCsum_inj.1 heq]
  omega

theorem verifyIp4_eq_verifyXport (buf : Nat → Byte) (off n : Nat) :
    verifyIp4 buf off n = verifyXport PseudoHeader.absent buf off n ip4CsumPos := rfl

theorem verifyXport_congr {f g : Nat → Byte} {off n : Nat} (h : ∀ a, off ≤ a → a < off + n → f a = g a)
    (ph : PseudoHeader) (p : Nat) : verifyXport ph f off n p = verifyXport ph g off n p := by
  rw [verifyXport, verifyXport, bytesFrom_congr h]

/-- Settles O35: the five laws, one lemma or two each. -/
theorem checksumLaws : Obligations.ChecksumLaws := by
  refine ⟨fun ws => ⟨onesSum16_eq_zero, inetCsum_eq_allOnes⟩, fun bs p => onesSum16_zeroField [],
    fun ph bs p heven hlen => ?_, fun ws i v w => inetCsum_set_ne,
    fun ph f g off n p h => ⟨verifyXport_congr h ph p, ?_⟩, fun ph bs k => ?_⟩
  · rw [onesSum16_zeroField ph heven hlen]
    refine ⟨fun hstored _ => ?_, stored_ne_iff_of_fold16⟩
    rw [hstored, fold16_add_inetCsum]
  · rw [verifyIp4_eq_verifyXport, verifyIp4_eq_verifyXport, verifyXport_congr h]
  · exact inetCsum_congr (by rw [wordSum_append, wordSum_append, wordSum_append_zeros])

/-! ### The commands (41_checksum R126, R129) -/

theorem csumCommand_eof {P : Params} {s : State} {p : Nat} (hw : s.windowOk P) (hn : s.winLen < p + 2)
    (verify : Nat → Nat → Verdict) : csumCommand P s p verify = s.onlyStatus .unexpectedEof := by
  rw [csumCommand, if_neg (not_not.2 hw), if_pos hn, State.fail_eq_onlyStatus]

theorem State.setVerdict_eq (s : State) (v : Verdict) :
    s.setVerdict v =
      { s with res := { s.res with rval := if v.stored = v.computed then 1 else 0, computed := v.computed,
                                   stored := v.stored },
               status := Status.okay } := by
  simp [State.setVerdict, Verdict.valid, State.setRes, State.succeed, State.setStatus, Status.okay]

theorem verifyXport_eq (s : State) (ph : PseudoHeader) {off n p : Nat} (h : p + 2 ≤ n) :
    verifyXport ph s.byteAt off n p =
      { stored := s.be16 (off + p),
        computed := inetCsum (phWords ph ++ checksumWords (zeroField (bytesFrom s.byteAt off n) p)) } := by
  rw [verifyXport, storedField_bytesFrom _ h, State.be16]

/-- What both commands answer over a window that holds the field. -/
theorem csumCommand_verdict {P : Params} {s : State} {p : Nat} (hw : s.windowOk P) (hn : p + 2 ≤ s.winLen)
    (ph : PseudoHeader) :
    let stored := s.be16 (s.winOff + p)
    let computed := inetCsum (phWords ph ++ checksumWords (zeroField (bytesFrom s.byteAt s.winOff s.winLen) p))
    csumCommand P s p (fun off n => verifyXport ph s.byteAt off n p) =
      { s with res := { s.res with rval := if stored = computed then 1 else 0, computed := computed,
                                   stored := stored },
               status := Status.okay } := by
  rw [csumCommand, if_neg (not_not.2 hw), if_neg (Nat.not_lt.2 hn), verifyXport_eq s ph hn, State.setVerdict_eq]

/-- Settles O36: a transport verification with no pseudo-header and the field at byte 10. -/
theorem csumIp4VerifiesTheWindow : Obligations.CsumIp4VerifiesTheWindow := by
  refine ⟨decode_encode (i := .csumIp4) rfl,
    fun s => ⟨fun hout => ?_, fun hend hbuf hn => ?_, fun hend hbuf hn => ?_⟩⟩
  · exact congrArg Host.Outcome.next (csumCommand_badWindow hout _ _)
  · exact congrArg Host.Outcome.next (csumCommand_eof ⟨hend, hbuf⟩ hn _)
  · exact congrArg Host.Outcome.next (csumCommand_verdict ⟨hend, hbuf⟩ hn PseudoHeader.absent)

theorem csumXportCmd_eq {P : Params} {s : State} {ph : PseudoHeader} (h : s.pseudoHeader = some ph) (x : Xport) :
    csumXportCmd P x s = csumCommand P s (csumPos x) (fun off n => verifyXport ph s.byteAt off n (csumPos x)) := by
  rw [csumXportCmd, h]

theorem eq_csumPos {x : Xport} {p : Nat} (h : (x, p) ∈ [(Xport.tcp, 16), (Xport.udp, 6), (Xport.icmp, 2)]) :
    p = csumPos x := by
  cases x <;> simpa [csumPos] using h

/-- Settles O37: the pseudo-header's check, then the body it shares with `CSUM.IP4`. -/
theorem csumXportVerifiesTheWindow : Obligations.CsumXportVerifiesTheWindow := by
  refine ⟨decode_encode (i := .csumXport .tcp) rfl, decode_encode (i := .csumXport .udp) rfl,
    decode_encode (i := .csumXport .icmp) rfl, fun s x p hp => ⟨fun hk => ?_, fun ph hph => ?_⟩⟩
  · exact congrArg Host.Outcome.next (csumXportCmd_reserved hk x)
  · obtain rfl := eq_csumPos hp
    have hcmd := csumXportCmd_eq (P := build) hph x
    refine ⟨fun hout => ?_, fun hend hbuf hn => ?_, fun hend hbuf hn => ?_⟩
    · exact congrArg Host.Outcome.next (hcmd.trans (csumCommand_badWindow hout _ _))
    · exact congrArg Host.Outcome.next (hcmd.trans (csumCommand_eof ⟨hend, hbuf⟩ hn _))
    · exact congrArg Host.Outcome.next (hcmd.trans (csumCommand_verdict ⟨hend, hbuf⟩ hn ph))

/-! ### The pseudo-header (41_checksum R125) -/

theorem State.pseudoHeader_eq_some {s : State} {k : PhKind} (h : phKindOf s.opr.phKind = some k) :
    s.pseudoHeader = some { kind := k, src := s.opr.phSrc, dst := s.opr.phDst, proto := s.opr.phProto,
                            len := s.opr.phLen } := by
  rw [State.pseudoHeader, h]

theorem phWords_v4 {ph : PseudoHeader} (h : ph.kind = .v4) :
    phWords ph =
      [ph.src.extractLsb' 16 16, ph.src.extractLsb' 0 16, ph.dst.extractLsb' 16 16, ph.dst.extractLsb' 0 16,
       ph.len.extractLsb' 16 16, ph.len.extractLsb' 0 16, (0 : Byte) ++ ph.proto] := by
  rw [phWords, h, setWidth_eq_zero_append (k := 8)]
  simp [halvesOf32, BitVec.extractLsb'_extractLsb'_of_le]

/-- Settles O34, kind by kind. -/
theorem pseudoHeaderWords : Obligations.PseudoHeaderWords := by
  refine ⟨fun ph => ⟨fun h => ?_, phWords_v4, fun h => ?_⟩,
    fun s => ⟨State.pseudoHeader_eq_none.2, fun k hk => ?_⟩⟩
  · rw [phWords, h]
  · rw [phWords, h, setWidth_eq_zero_append (k := 8)]
    rfl
  · have hkind : phKindOf s.opr.phKind = some k := by
      simp only [List.mem_cons, List.not_mem_nil, or_false, Prod.mk.injEq] at hk
      rcases hk with ⟨h, rfl⟩ | ⟨h, rfl⟩ | ⟨h, rfl⟩ <;> rw [h] <;> rfl
    exact State.pseudoHeader_eq_some hkind

end Sys2Proof.Machine
end

section
/-! The link and network parsers: a `PARSE.*` command over a window inside the buffer is fixed by the first failing test
of its parser, and the tests of each parser taken in their order (42_parsers_link_net R140 to R157). -/

namespace Sys2Proof.Machine

/-! ### A shallow parse inside the buffer (42_parsers_link_net R140) -/

/-- What the command `i` does over a parser with the given first failure and record. -/
structure ParsesAs (i : Instr) (s : State) (failure : Option Code) (rec : LayerRec) : Prop where
  done : failure = none → exec i s = .next (s.parseDone rec)
  failed : ∀ {code : Code}, failure = some code → exec i s = .next (s.parseFailed code)

/-- Inside the buffer the window check passes, so the parser's answer decides. -/
theorem ParsesAs.of_parseCommand {i : Instr} {s : State} {parser : Nat → Nat → Except Code LayerRec}
    {failure : Option Code} {rec : LayerRec} (hexec : exec i s = .next (parseCommand build s parser))
    (hw : s.windowOk build) (hparser : parser s.winOff s.winLen = answerOf failure rec) : ParsesAs i s failure rec := by
  have hnext : exec i s = .next (shallowResult s (answerOf failure rec)) := by
    rw [hexec, parseCommand, if_neg (not_not.2 hw), hparser]
  constructor
  case done =>
    intro hf
    rw [hnext, hf, answerOf_none, shallowResult_ok]
  case failed =>
    intro code hf
    rw [hnext, hf, answerOf_some, shallowResult_error]

section
variable {s : State} (hw : s.windowInside)
include hw

theorem parseEth_parsesAs :
    ParsesAs .parseEth s (s.firstFailure build .eth s.opr.winOff.toNat s.opr.winLen.toNat .absent)
      (s.ethRecord build s.opr.winOff.toNat s.opr.winLen.toNat) :=
  .of_parseCommand rfl hw (parseEth_answer build s _ _ .absent)

theorem parseVlan_parsesAs :
    ParsesAs .parseVlan s (s.firstFailure build .vlan s.opr.winOff.toNat s.opr.winLen.toNat .absent)
      (s.vlanRecord s.opr.winOff.toNat s.opr.winLen.toNat) :=
  .of_parseCommand rfl hw (parseVlan_answer build s _ _ .absent)

theorem parseIp4_parsesAs :
    ParsesAs .parseIp4 s (s.firstFailure build .ip4 s.opr.winOff.toNat s.opr.winLen.toNat .absent)
      (s.ip4Record s.opr.winOff.toNat s.opr.winLen.toNat) :=
  .of_parseCommand rfl hw (parseIp4_answer build s _ _ .absent)

theorem parseIp6_parsesAs :
    ParsesAs .parseIp6 s (s.firstFailure build .ip6 s.opr.winOff.toNat s.opr.winLen.toNat .absent)
      (s.ip6Record s.opr.winOff.toNat s.opr.winLen.toNat) :=
  .of_parseCommand rfl hw (parseIp6_answer build s _ _ .absent)

end

/-! ### Ethernet and 802.1Q -/

/-- Settles O38: the minimum with `FCS_EN`, the untagged header, the tagged header, in this order. -/
theorem parseEthDecodesTheFrame : Obligations.ParseEthDecodesTheFrame := by
  intro s hw
  have hparse := parseEth_parsesAs hw
  refine ⟨fun hmin h14 htag => hparse.done ?_, fun hfcs hshort => hparse.failed ?_,
    fun hfcs h14 => hparse.failed ?_, fun hfcs h14 htag h18 => hparse.failed ?_⟩
  · rw [State.firstFailure, if_neg fun hc => Nat.not_lt.2 (hmin hc.1) hc.2, if_neg (Nat.not_lt.2 h14),
      if_neg fun hc => Nat.not_lt.2 (htag hc.1) hc.2]
  · rw [State.firstFailure, if_pos ⟨hfcs, hshort⟩]
  · rw [State.firstFailure, if_neg (by simp [hfcs]), if_pos h14]
  · rw [State.firstFailure, if_neg (by simp [hfcs]), if_neg (Nat.not_lt.2 h14), if_pos ⟨htag, h18⟩]

/-- Settles O39: the one test is on the four bytes of the tag. -/
theorem parseVlanDecodesTheTag : Obligations.ParseVlanDecodesTheTag := by
  intro s hw
  have hparse := parseVlan_parsesAs hw
  exact ⟨fun h4 => hparse.done (if_neg (Nat.not_lt.2 h4)), fun h4 => hparse.failed (if_pos h4)⟩

/-! ### IPv4 and IPv6 -/

/-- The first three tests of `ParseIp4` passed: the length and the checksum remain. -/
theorem State.firstFailure_ip4_of_ihl {s : State} {off len : Nat} (P : Params) (ph : PseudoHeader) (h0 : 0 < len)
    (hv : s.version off = 4) (h5 : 5 ≤ s.ihl off) :
    s.firstFailure P .ip4 off len ph =
      if len < 4 * s.ihl off then some .truncatedPacket
      else if s.opr.strict = true ∧ s.checksumHolds PseudoHeader.absent off (4 * s.ihl off) 10 = false then
        some .checksumMismatch
      else none := by
  rw [State.firstFailure, if_neg h0.ne', if_neg (not_not.2 hv), if_neg (Nat.not_lt.2 h5)]

/-- Settles O40: the byte there, the version, `IHL`, the length of the header and, when strict, its checksum, in this
order. A header of five words or more that fits leaves no window empty. -/
theorem parseIp4DecodesTheHeader : Obligations.ParseIp4DecodesTheHeader := by
  intro s hw
  have hparse := parseIp4_parsesAs hw
  refine ⟨fun hv h5 hlen hck => hparse.done ?_, fun h0 => hparse.failed (if_pos h0),
    fun h0 hv => hparse.failed ?_, fun h0 hv h5 => hparse.failed ?_, fun h0 hv h5 hlen => hparse.failed ?_,
    fun hv h5 hlen hstrict hck => hparse.failed ?_⟩
  · have h0 : 0 < s.opr.winLen.toNat := by omega
    have hpass : ¬ (s.opr.strict = true ∧
        s.checksumHolds PseudoHeader.absent s.opr.winOff.toNat (4 * s.ihl s.opr.winOff.toNat) 10 = false) :=
      fun ⟨hstrict, hbad⟩ => Bool.false_ne_true (hbad.symm.trans (hck hstrict))
    rw [State.firstFailure_ip4_of_ihl _ _ h0 hv h5, if_neg (Nat.not_lt.2 hlen), if_neg hpass]
  · rw [State.firstFailure, if_neg h0.ne', if_pos hv]
  · rw [State.firstFailure, if_neg h0.ne', if_neg (not_not.2 hv), if_pos h5]
  · rw [State.firstFailure_ip4_of_ihl _ _ h0 hv h5, if_pos hlen]
  · have h0 : 0 < s.opr.winLen.toNat := by omega
    rw [State.firstFailure_ip4_of_ihl _ _ h0 hv h5, if_neg (Nat.not_lt.2 hlen), if_pos ⟨hstrict, hck⟩]

/-- Settles O41: the byte there, the version, then the 40 bytes. -/
theorem parseIp6DecodesTheHeader : Obligations.ParseIp6DecodesTheHeader := by
  intro s hw
  have hparse := parseIp6_parsesAs hw
  refine ⟨fun hv h40 => hparse.done ?_, fun h0 => hparse.failed (if_pos h0), fun h0 hv => hparse.failed ?_,
    fun h0 hv h40 => hparse.failed ?_⟩
  · have h0 : 0 < s.opr.winLen.toNat := by omega
    rw [State.firstFailure, if_neg h0.ne', if_neg (not_not.2 hv), if_neg (Nat.not_lt.2 h40)]
  · rw [State.firstFailure, if_neg h0.ne', if_pos hv]
  · rw [State.firstFailure, if_neg h0.ne', if_neg (not_not.2 hv), if_pos h40]

end Sys2Proof.Machine
end

section
/-! The transport parsers: with a legal pseudo-header a `PARSE.*` command over a window inside the buffer is fixed by
the first failing test of its parser, and the checksum is the last test of each (43_parsers_transport R170 to R183). -/

namespace Sys2Proof.Machine

/-! ### A transport parse inside the buffer (43_parsers_transport R171, R176, R181) -/

/-- A legal pseudo-header passes the check that comes before the window's. -/
theorem transportCommand_eq_parseCommand {P : Params} {s : State} {ph : PseudoHeader} (hph : s.pseudoHeader = some ph)
    (parser : PseudoHeader → Nat → Nat → Except Code LayerRec) :
    transportCommand P s parser = parseCommand P s (parser ph) := by
  rw [transportCommand, hph]

theorem ParsesAs.of_transportCommand {i : Instr} {s : State} {ph : PseudoHeader}
    {parser : PseudoHeader → Nat → Nat → Except Code LayerRec} {failure : Option Code} {rec : LayerRec}
    (hexec : exec i s = .next (transportCommand build s parser)) (hw : s.windowOk build)
    (hph : s.pseudoHeader = some ph) (hparser : parser ph s.winOff s.winLen = answerOf failure rec) :
    ParsesAs i s failure rec :=
  .of_parseCommand (hexec.trans (congrArg Host.Outcome.next (transportCommand_eq_parseCommand hph parser))) hw hparser

section
variable {s : State} {ph : PseudoHeader} (hw : s.windowInside) (hph : s.pseudoHeader = some ph)
include hw hph

theorem parseTcp_parsesAs :
    ParsesAs .parseTcp s (s.firstFailure build .tcp s.opr.winOff.toNat s.opr.winLen.toNat ph)
      (s.tcpRecord s.opr.winOff.toNat s.opr.winLen.toNat ph) :=
  .of_transportCommand rfl hw hph (parseTcp_answer build s _ _ ph)

theorem parseUdp_parsesAs :
    ParsesAs .parseUdp s (s.firstFailure build .udp s.opr.winOff.toNat s.opr.winLen.toNat ph)
      (s.udpRecord s.opr.winOff.toNat s.opr.winLen.toNat ph) :=
  .of_transportCommand rfl hw hph (parseUdp_answer build s _ _ ph)

theorem parseIcmp_parsesAs :
    ParsesAs .parseIcmp s (s.firstFailure build .icmp s.opr.winOff.toNat s.opr.winLen.toNat ph)
      (s.icmpRecord s.opr.winOff.toNat s.opr.winLen.toNat ph) :=
  .of_transportCommand rfl hw hph (parseIcmp_answer build s _ _ ph)

end

/-! ### The checksum test: it fails only when `STRICT` is set (10_state R25) -/

/-- In lenient mode the verdict decides nothing; in strict mode it has to hold. -/
theorem State.checksumTest_passes {s : State} {ph : PseudoHeader} {off len p : Nat}
    (h : s.opr.strict = true → s.checksumHolds ph off len p = true) :
    ¬ (s.opr.strict = true ∧ s.checksumHolds ph off len p = false) :=
  fun ⟨hstrict, hbad⟩ => Bool.false_ne_true (hbad.symm.trans (h hstrict))

/-! ### TCP -/

/-- The base header is there and its data offset is at least 5: the header's length and the checksum remain. -/
theorem State.firstFailure_tcp_of_doff {s : State} {off len : Nat} (P : Params) (ph : PseudoHeader) (h20 : 20 ≤ len)
    (h5 : 5 ≤ s.doff off) :
    s.firstFailure P .tcp off len ph =
      if len < 4 * s.doff off then some .truncatedPacket
      else if s.opr.strict = true ∧ s.checksumHolds ph off len 16 = false then some .checksumMismatch
      else none := by
  rw [State.firstFailure, if_neg (Nat.not_lt.2 h20), if_neg (Nat.not_lt.2 h5)]

/-- Settles O42: the base header, `DOFF`, the length of the header and, when strict, the checksum, in this order. A
header longer than a window of 20 bytes has a `DOFF` of at least 5. -/
theorem parseTcpDecodesTheHeader : Obligations.ParseTcpDecodesTheHeader := by
  intro s ph hw hph
  have hparse := parseTcp_parsesAs hw hph
  refine ⟨fun h20 h5 hlen hck => hparse.done ?_, fun h20 => hparse.failed (if_pos h20),
    fun h20 h5 => hparse.failed ?_, fun h20 hlen => hparse.failed ?_,
    fun h20 h5 hlen hstrict hck => hparse.failed ?_⟩
  · rw [State.firstFailure_tcp_of_doff _ _ h20 h5, if_neg (Nat.not_lt.2 hlen),
      if_neg (State.checksumTest_passes hck)]
  · rw [State.firstFailure, if_neg (Nat.not_lt.2 h20), if_pos h5]
  · rw [State.firstFailure_tcp_of_doff _ _ h20 (by omega), if_pos hlen]
  · rw [State.firstFailure_tcp_of_doff _ _ h20 h5, if_neg (Nat.not_lt.2 hlen), if_pos ⟨hstrict, hck⟩]

/-! ### UDP and ICMP -/

/-- Settles O43: the eight bytes, then, only when strict, the length field and the checksum. -/
theorem parseUdpDecodesTheHeader : Obligations.ParseUdpDecodesTheHeader := by
  intro s ph hw hph
  have hparse := parseUdp_parsesAs hw hph
  refine ⟨fun h8 hstrictOk => hparse.done ?_, fun h8 => hparse.failed (if_pos h8),
    fun h8 hstrict hne => hparse.failed ?_, fun h8 hstrict heq hck => hparse.failed ?_⟩
  · rw [State.firstFailure, if_neg (Nat.not_lt.2 h8), if_neg fun hc => hc.2 (hstrictOk hc.1).1,
      if_neg (State.checksumTest_passes fun hstrict => (hstrictOk hstrict).2)]
  · rw [State.firstFailure, if_neg (Nat.not_lt.2 h8), if_pos ⟨hstrict, hne⟩]
  · rw [State.firstFailure, if_neg (Nat.not_lt.2 h8), if_neg fun hc => hc.2 heq, if_pos ⟨hstrict, hck⟩]

/-- Settles O44: the four bytes, then the checksum when strict. -/
theorem parseIcmpDecodesTheHeader : Obligations.ParseIcmpDecodesTheHeader := by
  intro s ph hw hph
  have hparse := parseIcmp_parsesAs hw hph
  refine ⟨fun h4 hck => hparse.done ?_, fun h4 => hparse.failed (if_pos h4),
    fun h4 hstrict hck => hparse.failed ?_⟩
  · rw [State.firstFailure, if_neg (Nat.not_lt.2 h4), if_neg (State.checksumTest_passes hck)]
  · rw [State.firstFailure, if_neg (Nat.not_lt.2 h4), if_pos ⟨hstrict, hck⟩]

end Sys2Proof.Machine
end

section
/-! The dispatcher and one transition of the deep-parse sequencer: `DISP.*`, `DEEP.START` and `DEEP.STEP`
(44_dispatch_deep R190 to R205). -/

namespace Sys2Proof.Machine

/-! ### The dispatcher (44_dispatch_deep R190 to R193) -/

/-- The default table by protocol numbers; the two ICMP numbers name one parser (44_dispatch_deep R191). -/
theorem defaultIpprotoTable_eq (v : Byte) :
    defaultIpprotoTable v =
      if v = 1 ∨ v = 58 then .icmp else if v = 6 then .tcp else if v = 17 then .udp else .none := by
  by_cases h58 : v = 58
  · subst h58
    rfl
  · simp only [defaultIpprotoTable, h58, or_false, if_false]

theorem lookupStatus_decide (p : Prop) [Decidable p] (n : Nat) :
    lookupStatus (decide p) n =
      { err := false, code := if p then .unsupportedProtocol else .ok, layer := BitVec.ofNat 8 n } := by
  simp [lookupStatus]

theorem dispatchResult_eq (s : State) (k : Kind) :
    dispatchResult s k =
      { s with res := { s.res with next := k },
               status := { err := false, code := if k = .none then .unsupportedProtocol else .ok, layer := 0 } } := by
  rw [dispatchResult, lookupStatus_decide]
  rfl

/-- Settles O45. -/
theorem dispEtypeLooksUpTheTable : Obligations.DispEtypeLooksUpTheTable :=
  ⟨rfl, fun s => congrArg Host.Outcome.next (dispatchResult_eq s (defaultEtypeTable s.opr.pid))⟩

/-- The operand `PID[7:0]` compared with a protocol number (10_state R29). -/
theorem State.pidIpproto_eq_iff (s : State) (v : Byte) : s.pidIpproto = v ↔ s.opr.pid.toNat % 256 = v.toNat := by
  rw [← BitVec.toNat_inj, State.pidIpproto, BitVec.extractLsb'_toNat]
  rfl

/-- Settles O46: `PID[7:0]` is a protocol number when `PID` modulo 256 is. -/
theorem dispIpprotoLooksUpTheTable : Obligations.DispIpprotoLooksUpTheTable := by
  refine ⟨rfl, fun s => ?_⟩
  have hexec : exec .dispIpproto s = .next (dispatchResult s (defaultIpprotoTable s.pidIpproto)) := rfl
  rw [hexec, dispatchResult_eq, defaultIpprotoTable_eq]
  simp only [State.pidIpproto_eq_iff]
  rfl

/-! ### `DEEP.START` (44_dispatch_deep R200) -/

theorem exec_deepStart_ok {s : State} {k : Kind} (hk : k ≠ .none) (hw : s.windowInside) :
    exec (.deepStart k) s = .next (s.parseOpened k) :=
  congrArg Host.Outcome.next (deepStartCmd_ok hk hw)

/-- A parse opened on a window inside the buffer can take its first step. -/
theorem State.parseOpened_deepReady {s : State} {k : Kind} (hk : k ≠ .none) (hw : s.windowInside) :
    (s.parseOpened k).deepReady :=
  ⟨rfl, hk, hw⟩

/-- Settles O47: `NONE` aside, the window check alone decides. -/
theorem deepStartOpensTheParse : Obligations.DeepStartOpensTheParse := by
  refine fun s k hk => ⟨?_, fun hw => exec_badWindow (decide_eq_true hk) rfl ?_ ?_ hw, exec_deepStart_ok hk⟩
  · have hword : 0x00000038 ||| (k.code.setWidth 32 <<< 8) = encode (.deepStart k) := by cases k <;> rfl
    rw [hword]
    exact decode_encode (decide_eq_true hk)
  · exact fun h => by cases h
  · exact fun h => by rcases h with h | h <;> cases h

/-! ### The pseudo-header of a step (44_dispatch_deep R204) -/

/-- Settles O49: only the last layer is looked at, and the rule is one case for each kind of it. -/
theorem deepPseudoHeaderComesFromTheLayerBelow : Obligations.DeepPseudoHeaderComesFromTheLayerBelow := by
  intro below e kind len
  have hlast : (below ++ [e]).getLast? = some e := List.getLast?_concat
  refine ⟨rfl, fun f hf => ⟨?_, fun hk => ?_⟩, fun f hf => ?_, fun h4 h6 => ?_⟩
  · simp only [deepPh, hlast, hf]
    rfl
  · simp only [deepPh, hlast, hf, if_neg hk]
  · simp only [deepPh, hlast, hf]
  · cases hb : e.body with
    | ip4 f => exact absurd (congrArg LayerBody.kind hb) h4
    | ip6 f => exact absurd (congrArg LayerBody.kind hb) h6
    | _ =>
      simp only [deepPh, hlast, hb]
      rfl

/-! ### `DEEP.STEP` (44_dispatch_deep R201) -/

theorem deepCommand_badState {P : Params} {s : State} (hp : s.dp.state ≠ .parsing) (work : Option State) :
    deepCommand P s work = some (s.onlyStatus .badState) := by
  rw [deepCommand, if_pos hp, State.fail_eq_onlyStatus]

section
variable {s : State} (h : s.deepReady)
include h

theorem State.deepReady.parsing : s.dp.state = .parsing := by obtain ⟨hp, _, _⟩ := h; exact hp

theorem State.deepReady.next_ne_none : s.dp.next ≠ .none := by obtain ⟨_, hk, _⟩ := h; exact hk

theorem State.deepReady.deepOk : s.deepOk build := by obtain ⟨_, _, hok⟩ := h; exact hok

/-- A ready parse passes the checks `DEEP.STEP` and `DEEP.RUN` share. -/
theorem State.deepReady.deepCommand (work : Option State) : deepCommand build s work = work := by
  rw [Machine.deepCommand, if_neg (not_not.2 h.parsing), if_neg (not_not.2 h.deepOk)]

theorem State.deepReady.exec_deepStep : exec .deepStep s = deepOutcome (deepBody build s) :=
  congrArg deepOutcome (h.deepCommand _)

end

/-- Below the depth bound the first failing test of the selected parser ends the parse (44_dispatch_deep R201). -/
theorem deepBody_fails {P : Params} {s : State} {code : Code} (hn : s.layers.length < P.maxDepth)
    (hr : runParser P s s.dp.next s.dp.off.toNat s.dp.len.toNat = some (.error code)) :
    deepBody P s = some (s.deepFailed code) := by
  rw [deepBody, if_neg (by rwa [State.nlayers_eq, not_le]), hr, ← deepFail_eq]

/-- The parser of a kind that is not `NONE` answers its first failure. -/
theorem runParser_fails {P : Params} {s : State} {kind : Kind} {off len : Nat} {code : Code} (hk : kind ≠ .none)
    (hf : s.firstFailure P kind off len (deepPh s.layers kind len) = some code) :
    runParser P s kind off len = some (.error code) := by
  rw [runParser_answer, hf]
  cases kind with
  | none => exact absurd rfl hk
  | _ => rfl

theorem runParser_decodes {P : Params} {s : State} {kind : Kind} {off len : Nat} {rec : LayerRec}
    (hf : s.firstFailure P kind off len (deepPh s.layers kind len) = none)
    (hrec : s.layerRecord P kind off len (deepPh s.layers kind len) = some rec) :
    runParser P s kind off len = some (.ok rec) := by
  rw [runParser_answer, hf, hrec]
  rfl

/-- A decoded layer whose indicator selects a parser: the parse goes on with its payload. -/
theorem deepAppend_known {P : Params} {s : State} {rec : LayerRec} (h : dispatch P rec.ind ≠ .none) :
    deepAppend P s rec =
      { s with layers := s.layers ++ [rec],
               dp := { s.dp with next := dispatch P rec.ind, off := rec.payOff, len := rec.payLen },
               status := { err := false, code := .ok, layer := BitVec.ofNat 8 (s.layers.length + 1) } } := by
  rw [deepAppend, sequencerAfter_known h, statusAfter, lookupStatus_decide, if_neg fun hc => h hc.1]
  rfl

/-- A decoded layer whose indicator selects none: its payload is the opaque one (44_dispatch_deep R205). -/
theorem deepAppend_unknown {P : Params} {s : State} {rec : LayerRec} (h : dispatch P rec.ind = .none) :
    deepAppend P s rec =
      { s with layers := s.layers ++ [rec],
               dp := { state := .terminated, next := .none, off := rec.payOff, len := rec.payLen,
                       opqOff := rec.payOff, opqLen := rec.payLen },
               status := { err := false, code := if rec.ind = .none then .ok else .unsupportedProtocol,
                           layer := BitVec.ofNat 8 (s.layers.length + 1) } } := by
  have hdp : sequencerAfter P s.dp rec =
      { state := .terminated, next := .none, off := rec.payOff, len := rec.payLen,
        opqOff := rec.payOff, opqLen := rec.payLen } := if_neg (not_not.2 h)
  rw [deepAppend, hdp, statusAfter, lookupStatus_decide]
  simp only [h, true_and, ne_eq, ite_not]
  rfl

/-- A step that decodes the record of the selected parser (44_dispatch_deep R201). -/
theorem State.deepReady.exec_deepStep_decodes {s : State} {rec : LayerRec} (h : s.deepReady)
    (hn : s.layers.length < build.maxDepth)
    (hf : s.firstFailure build s.dp.next s.dp.off.toNat s.dp.len.toNat
      (deepPh s.layers s.dp.next s.dp.len.toNat) = none)
    (hrec : s.layerRecord build s.dp.next s.dp.off.toNat s.dp.len.toNat
      (deepPh s.layers s.dp.next s.dp.len.toNat) = some rec) :
    exec .deepStep s = .next (deepAppend build s rec) := by
  rw [h.exec_deepStep, deepBody_decodes hn (runParser_decodes hf hrec)]
  rfl

/-- Settles O48: the two checks before the body, the depth bound, then the parser's first failure or its record, whose
indicator decides between the two ways on. -/
theorem deepStepIsOneTransition : Obligations.DeepStepIsOneTransition := by
  refine ⟨rfl, fun P => ⟨rfl, fun _ => rfl, fun _ => rfl⟩, fun _ => rfl, defaultIpprotoTable_eq, fun s =>
    ⟨fun hp => congrArg deepOutcome (deepCommand_badState hp _),
      fun hp hout => congrArg deepOutcome (deepCommand_badWindow hp hout _), fun hready hfull => ?_,
      fun hready hn code hf => ?_, fun hready hn hf rec hrec => ?_⟩⟩
  · rw [hready.exec_deepStep, deepBody_full hfull]
    rfl
  · rw [hready.exec_deepStep, deepBody_fails hn (runParser_fails hready.next_ne_none hf)]
    rfl
  · rw [hready.exec_deepStep_decodes hn hf hrec]
    exact ⟨fun h => congrArg Host.Outcome.next (deepAppend_known h),
      fun h => congrArg Host.Outcome.next (deepAppend_unknown h)⟩

/-- Settles O54: the IPv6 parser's three tests pass, and the default table maps the next header to no parser. -/
theorem extensionHeadersEndTheParse : Obligations.ExtensionHeadersEndTheParse := by
  intro s hready hn hnext off len h40 hversion hnh
  have hrec : exec .deepStep s = .next (deepAppend build s (s.ip6Record off len)) := by
    refine hready.exec_deepStep_decodes hn ?_ (by rw [hnext]; rfl)
    rw [hnext, State.firstFailure, if_neg (show len ≠ 0 by omega), if_neg (not_not.2 hversion),
      if_neg (Nat.not_lt.2 h40)]
  have hind : dispatch build (s.ip6Record off len).ind = .none := by
    simp only [List.mem_cons, List.not_mem_nil, or_false, not_or] at hnh
    obtain ⟨h1, h6, h17, h58⟩ := hnh
    refine (defaultIpprotoTable_eq (s.byteAt (off + 6))).trans ?_
    rw [if_neg (not_or.2 ⟨h1, h58⟩), if_neg h6, if_neg h17]
  have hoff : (s.ip6Record off len).payOff = s.dp.off + 40 := by
    refine BitVec.eq_of_toNat_eq ?_
    rw [BitVec.toNat_add]
    exact BitVec.toNat_ofNat _ _
  have hlen : (s.ip6Record off len).payLen = s.dp.len - 40 := by
    refine BitVec.eq_of_toNat_eq ?_
    rw [BitVec.toNat_sub_of_le h40]
    exact Nat.mod_eq_of_lt (by omega)
  rw [hrec, deepAppend_unknown hind, hoff, hlen, if_neg (fun h => by cases h)]

end Sys2Proof.Machine
end

section
/-! A whole deep parse: the steps `DEEP.RUN` takes from a ready state to a terminal one, and the layers they decode
(44_dispatch_deep R205 to R209). -/

namespace Sys2Proof.Machine

/-! ### The steps of a run -/

/-- The next step of the parse decodes `rec` from the current slice. -/
structure State.Decodes (s : State) (rec : LayerRec) : Prop where
  ready : s.deepReady
  window : rec.DecodedFrom build s.dp.next s.dp.off.toNat s.dp.len.toNat
  body : deepBody build s = some (deepAppend build s rec)

/-- `s.RunsTo n new t`: of a run's steps `n` go on and one more ends it in `t`; they decode the layers `new`. -/
inductive State.RunsTo : Nat → State → List LayerRec → State → Prop
  | failed {s : State} {code : Code} (ready : s.deepReady) (body : deepBody build s = some (s.deepFailed code)) :
      State.RunsTo 0 s [] (s.deepFailed code)
  | terminated {s : State} {rec : LayerRec} (step : s.Decodes rec) (unknown : dispatch build rec.ind = .none) :
      State.RunsTo 0 s [rec] (deepAppend build s rec)
  | goesOn {n : Nat} {s t : State} {rec : LayerRec} {new : List LayerRec} (step : s.Decodes rec)
      (known : dispatch build rec.ind ≠ .none) (rest : State.RunsTo n (deepAppend build s rec) new t) :
      State.RunsTo (n + 1) s (rec :: new) t

/-- Everything a step of a ready parse can do (44_dispatch_deep R201). -/
theorem State.deepReady.deepBody_cases {s : State} (h : s.deepReady) :
    (∃ code, deepBody build s = some (s.deepFailed code)) ∨
      ∃ rec, s.layers.length < build.maxDepth ∧ s.Decodes rec := by
  obtain ⟨hend, hbuf⟩ := h.deepOk
  rcases Machine.deepBody_cases build s with ⟨_, he⟩ | ⟨_, hnone, _⟩ | ⟨code, _, _, he⟩ | ⟨rec, hn, hr, he⟩
  · exact .inl ⟨_, he⟩
  · exact absurd hnone h.next_ne_none
  · exact .inl ⟨code, he⟩
  · exact .inr ⟨rec, hn, h, runParser_decodedFrom build_admissible (by decide) (hend.trans hbuf) hr, he⟩

/-- A parse that goes on is ready for its next step: the payload lies inside the slice (44_dispatch_deep R209). -/
theorem State.Decodes.deepReady {s : State} {rec : LayerRec} (h : s.Decodes rec)
    (hknown : dispatch build rec.ind ≠ .none) : (deepAppend build s rec).deepReady := by
  refine ⟨?_, ?_, deepOk_deepBody build_admissible (by decide) h.ready.deepOk h.body⟩
  · rw [deepAppend_dp, sequencerAfter_known hknown]
    exact h.ready.parsing
  · rwa [deepAppend_dp, sequencerAfter_known hknown]

/-- A ready parse runs to an end: a step that goes on uses up one of the layers left below the depth bound
(44_dispatch_deep R203, R207). -/
theorem State.deepReady.runs {s : State} (d : Nat) (h : s.deepReady) (hd : build.maxDepth ≤ s.layers.length + d) :
    ∃ n new t, n ≤ d ∧ s.RunsTo n new t := by
  induction d generalizing s with
  | zero => exact ⟨0, [], _, le_rfl, .failed h (deepBody_full hd)⟩
  | succ d ih =>
    rcases h.deepBody_cases with ⟨code, hbody⟩ | ⟨rec, _, hstep⟩
    · exact ⟨0, [], _, Nat.zero_le _, .failed h hbody⟩
    · by_cases hind : dispatch build rec.ind = .none
      · exact ⟨0, [rec], _, Nat.zero_le _, .terminated hstep hind⟩
      · obtain ⟨n, new, t, hn, hrest⟩ := ih (hstep.deepReady hind) (by
          rw [deepAppend_layers, List.length_append, List.length_singleton]; omega)
        exact ⟨n + 1, rec :: new, t, Nat.succ_le_succ hn, .goesOn hstep hind hrest⟩

section
variable {n : Nat} {s t : State} {new : List LayerRec} (h : s.RunsTo n new t)
include h

theorem State.RunsTo.ready : s.deepReady := by
  cases h with
  | failed ready _ => exact ready
  | terminated step _ => exact step.ready
  | goesOn step _ _ => exact step.ready

theorem State.RunsTo.terminal : t.dp.state = .terminated ∨ t.dp.state = .failed := by
  induction h with
  | failed _ _ => exact .inr rfl
  | terminated _ unknown => exact .inl (by rw [deepAppend_unknown unknown])
  | goesOn _ _ _ ih => exact ih

theorem State.RunsTo.not_parsing : t.dp.state ≠ .parsing := by
  rcases h.terminal with ht | ht <;> rw [ht] <;> decide

/-- The loop of `DEEP.RUN` takes these steps and stops (44_dispatch_deep R207). -/
theorem State.RunsTo.deepLoop {rounds : Nat} (hr : n ≤ rounds) : deepLoop build (rounds + 1) s = some t := by
  have hend := h.not_parsing
  induction h generalizing rounds with
  | failed ready body =>
    rw [deepLoop_parsing _ ready.parsing, body]
    exact deepLoop_terminal _ hend
  | terminated step _ =>
    rw [deepLoop_parsing _ step.ready.parsing, step.body]
    exact deepLoop_terminal _ hend
  | goesOn step _ _ ih =>
    obtain ⟨rounds, rfl⟩ := Nat.exists_eq_add_one_of_ne_zero (Nat.ne_zero_of_lt hr)
    rw [deepLoop_parsing _ step.ready.parsing, step.body]
    exact ih (by omega) hend

theorem State.RunsTo.deepSteps : deepSteps (n + 1) s = .next t := by
  induction h with
  | failed ready body => rw [Machine.deepSteps, ready.exec_deepStep, body]; rfl
  | terminated step _ => rw [Machine.deepSteps, step.ready.exec_deepStep, step.body]; rfl
  | goesOn step _ _ ih =>
    rw [Machine.deepSteps, step.ready.exec_deepStep, step.body]
    exact ih

/-- Before its last step a run is still parsing (44_dispatch_deep R207). -/
theorem State.RunsTo.parsing_before {m : Nat} (hm : m ≤ n) :
    ∃ u : State, Machine.deepSteps m s = .next u ∧ u.dp.state = .parsing := by
  cases m with
  | zero => exact ⟨s, rfl, h.ready.parsing⟩
  | succ m =>
    induction h generalizing m with
    | failed _ _ => omega
    | terminated _ _ => omega
    | goesOn step _ rest ih =>
      rw [Machine.deepSteps, step.ready.exec_deepStep, step.body]
      cases m with
      | zero => exact ⟨_, rfl, rest.ready.parsing⟩
      | succ m => exact ih m (by omega)

end

/-- `DEEP.RUN` from a ready state is a run of at most `MAX_DEPTH + 1` steps. -/
theorem State.deepReady.exec_deepRun {s : State} (h : s.deepReady) :
    ∃ n new t, n ≤ build.maxDepth ∧ s.RunsTo n new t ∧ exec .deepRun s = .next t := by
  obtain ⟨n, new, t, hn, hrun⟩ := h.runs build.maxDepth (Nat.le_add_left _ _)
  exact ⟨n, new, t, hn, hrun,
    deepOutcome_eq_next.2 ((h.deepCommand _).trans (hrun.deepLoop hn))⟩

/-- Settles O50: the run of the loop, read as steps. -/
theorem deepRunIsASequenceOfSteps : Obligations.DeepRunIsASequenceOfSteps := by
  refine ⟨rfl, fun s => ⟨fun hp => congrArg deepOutcome (deepCommand_badState hp _),
    fun hp hout => congrArg deepOutcome (deepCommand_badWindow hp hout _), fun hready => ?_⟩⟩
  obtain ⟨n, _, t, hn, hrun, hexec⟩ := hready.exec_deepRun
  exact ⟨n, t, hn, hexec, hrun.deepSteps, hrun.terminal, fun m => hrun.parsing_before⟩

/-! ### The layers of a run -/

/-- The header and the payload of a layer lie one after the other inside the slice of `len` bytes from `off`. -/
def LayerRec.Inside (off len : Word) (r : LayerRec) : Prop :=
  off.toNat ≤ r.hdrOff.toNat ∧ r.hdrOff.toNat + r.hdrLen.toNat = r.payOff.toNat ∧
    r.payOff.toNat + r.payLen.toNat ≤ off.toNat + len.toNat

section
variable {P : Params} {kind : Kind} {off len : Word} {r : LayerRec}
  (h : r.DecodedFrom P kind off.toNat len.toNat)
include h

theorem LayerRec.DecodedFrom.hdrOff_eq : r.hdrOff = off := by
  rw [h.hdrOff, BitVec.ofNat_toNat, BitVec.setWidth_eq]

theorem LayerRec.DecodedFrom.inside : r.Inside off len := by
  have hpay := h.payEnd
  exact ⟨by rw [h.hdrOff_eq], h.valid.payOff.symm, by omega⟩

end

/-- What lies inside a layer's payload lies inside the layer's slice. -/
theorem LayerRec.Inside.trans {off len : Word} {a r : LayerRec} (hr : r.Inside a.payOff a.payLen)
    (ha : a.Inside off len) : r.Inside off len := by
  obtain ⟨hstart, hmid, hend⟩ := ha
  obtain ⟨hstart', hmid', hend'⟩ := hr
  exact ⟨by omega, hmid', by omega⟩

/-- A layer decoded from `a`'s payload by the parser `a`'s indicator selects: it has no FCS, so it keeps no byte of the
payload back (44_dispatch_deep R209). -/
theorem LayerRec.DecodedFrom.follows {P : Params} {a r : LayerRec} (hP : P.Admissible)
    (h : r.DecodedFrom P (dispatch P a.ind) a.payOff.toNat a.payLen.toNat) : a.Follows P r := by
  have htrailer : r.trailer = 0 := if_neg fun he => dispatch_ne_eth hP a.ind (h.kind_eq.symm.trans he.1)
  have hpay := h.payEnd
  exact ⟨h.kind_eq.symm, h.hdrOff_eq, by omega⟩

section
variable {n : Nat} {s t : State} {new : List LayerRec} (h : s.RunsTo n new t)
include h

theorem State.RunsTo.layers : t.layers = s.layers ++ new := by
  induction h with
  | failed _ _ => exact (List.append_nil _).symm
  | terminated _ _ => rfl
  | goesOn _ _ _ ih => rw [ih, deepAppend_layers, List.append_assoc, List.singleton_append]

/-- The first new layer is decoded from the slice the run begins on. -/
theorem State.RunsTo.head {r : LayerRec} (hr : new.head? = some r) :
    r.DecodedFrom build s.dp.next s.dp.off.toNat s.dp.len.toNat := by
  cases h with
  | failed _ _ => cases hr
  | terminated step _ => cases hr; exact step.window
  | goesOn step _ _ => cases hr; exact step.window

theorem State.RunsTo.chain : new.IsChain (LayerRec.Follows build) := by
  induction h with
  | failed _ _ => exact List.isChain_nil
  | terminated _ _ => exact List.isChain_singleton _
  | goesOn _ known rest ih =>
    refine List.isChain_cons.2 ⟨fun r hr => ?_, ih⟩
    have hwindow := rest.head hr
    rw [deepAppend_dp, sequencerAfter_known known] at hwindow
    exact hwindow.follows build_admissible

/-- Every layer of a run lies inside the slice the run begins on (44_dispatch_deep R209). -/
theorem State.RunsTo.inside : ∀ r ∈ new, r.Inside s.dp.off s.dp.len := by
  induction h with
  | failed _ _ => exact fun r hr => absurd hr List.not_mem_nil
  | terminated step _ => exact List.forall_mem_singleton.2 step.window.inside
  | goesOn step known _ ih =>
    rw [deepAppend_dp, sequencerAfter_known known] at ih
    exact List.forall_mem_cons.2 ⟨step.window.inside, fun r hr => (ih r hr).trans step.window.inside⟩

theorem State.RunsTo.statusLayer : t.status.layer = BitVec.ofNat 8 t.layers.length := by
  induction h with
  | failed _ _ => rfl
  | terminated _ _ =>
    rw [deepAppend_layers, List.length_append]
    rfl
  | goesOn _ _ _ ih => exact ih

/-- How a run ends (44_dispatch_deep R205): the last layer's payload is the opaque slice, or the run failed and the
opaque slice is the one it began with. -/
theorem State.RunsTo.ending :
    (t.dp.state = .terminated ∧ t.status.err = false ∧
        ∃ r, new.getLast? = some r ∧ t.dp.opqOff = r.payOff ∧ t.dp.opqLen = r.payLen ∧
          (t.status.code = .ok ↔ r.ind = .none)) ∨
      (t.dp.state = .failed ∧ t.status.err = true ∧ t.dp.opqOff = s.dp.opqOff ∧ t.dp.opqLen = s.dp.opqLen) := by
  induction h with
  | failed _ _ => exact .inr ⟨rfl, rfl, rfl, rfl⟩
  | @terminated s rec _ unknown =>
    rw [deepAppend_unknown unknown]
    exact .inl ⟨rfl, rfl, rec, rfl, rfl, rfl, by simp⟩
  | goesOn _ known _ ih =>
    rw [deepAppend_dp, sequencerAfter_known known] at ih
    refine ih.imp_left ?_
    rintro ⟨hstate, herr, r, hlast, hend⟩
    exact ⟨hstate, herr, r, by rw [List.getLast?_cons, hlast]; rfl, hend⟩

end

/-- Settles O51: each clause by induction on the steps of the run. -/
theorem deepRunKeepsAndNestsItsLayers : Obligations.DeepRunKeepsAndNestsItsLayers := by
  intro s hready
  obtain ⟨_, new, t, _, hrun, hexec⟩ := hready.exec_deepRun
  exact ⟨t, new, hexec, hrun.layers, fun r hr => ⟨(hrun.head hr).kind_eq, (hrun.head hr).hdrOff_eq⟩, hrun.chain,
    hrun.inside, hrun.statusLayer, hrun.ending⟩

end Sys2Proof.Machine
end

section
/-! Two deep parses side by side: with the same sequencer, layers and `CFG`, and the same bytes in the current slice,
they stay the same (44_dispatch_deep R209, 10_state R54). -/

namespace Sys2Proof.Machine

/-- The parser of a step takes `CFG` from the operand registers and nothing else (44_dispatch_deep R202). -/
theorem runParser_setOpr {P : Params} {s : State} {o : Operands} (hfcs : o.fcsEn = s.opr.fcsEn)
    (hstrict : o.strict = s.opr.strict) (kind : Kind) (off len : Nat) :
    runParser P (s.setOpr o) kind off len = runParser P s kind off len := by
  unfold runParser
  rw [State.setOpr_opr, hfcs, hstrict]
  rfl

/-- `u` is the same deep parse as `s`: all that its steps read, and all that they write. -/
structure State.SameParse (s u : State) : Prop where
  layers : u.layers = s.layers
  dp : u.dp = s.dp
  status : u.status = s.status
  fcsEn : u.opr.fcsEn = s.opr.fcsEn
  strict : u.opr.strict = s.opr.strict
  bytes : SameOn u.byteAt s.byteAt s.dp.off.toNat s.dp.len.toNat

section
variable {P : Params} {s u : State} (h : s.SameParse u)
include h

theorem State.SameParse.runParser (hmin : 4 ≤ P.ethMinFrame) :
    runParser P u u.dp.next u.dp.off.toNat u.dp.len.toNat = runParser P s s.dp.next s.dp.off.toNat s.dp.len.toNat := by
  rw [h.dp]
  calc Machine.runParser P u s.dp.next s.dp.off.toNat s.dp.len.toNat
    _ = Machine.runParser P (u.setOpr s.opr) s.dp.next s.dp.off.toNat s.dp.len.toNat :=
        (runParser_setOpr h.fcsEn.symm h.strict.symm _ _ _).symm
    _ = Machine.runParser P s s.dp.next s.dp.off.toNat s.dp.len.toNat :=
        runParser_congr (s := s) (u := u.setOpr s.opr) rfl h.layers _ h.bytes hmin

theorem State.SameParse.deepFailed (code : Code) : (s.deepFailed code).SameParse (u.deepFailed code) :=
  ⟨h.layers, by simp only [State.deepFailed, h.dp], by simp only [State.deepFailed, h.layers], h.fcsEn, h.strict,
    h.bytes⟩

/-- The layer decoded from the current slice leaves its payload, part of that slice, as the next one. -/
theorem State.SameParse.deepAppend {rec : LayerRec} (hrec : rec.Inside s.dp.off s.dp.len) :
    (deepAppend P s rec).SameParse (deepAppend P u rec) := by
  obtain ⟨hstart, hmid, hend⟩ := hrec
  refine ⟨by rw [deepAppend_layers, deepAppend_layers, h.layers], by rw [deepAppend_dp, deepAppend_dp, h.dp], ?_,
    h.fcsEn, h.strict, ?_⟩
  · exact congrArg (fun ls : List LayerRec => statusAfter P rec (ls.length + 1)) h.layers
  · have hbytes : SameOn u.byteAt s.byteAt rec.payOff.toNat rec.payLen.toNat :=
      fun a ha ha' => h.bytes a (by omega) (by omega)
    rcases sequencerAfter_cases P s.dp rec with ⟨_, he⟩ | ⟨_, he⟩ <;> rw [deepAppend_dp, he] <;> exact hbytes

/-- One step of both parses. -/
theorem State.SameParse.deepBody {t : State} (hP : P.Admissible) (hmin : 22 ≤ P.ethMinFrame) (hok : s.deepOk P)
    (ht : deepBody P s = some t) : ∃ v, deepBody P u = some v ∧ t.SameParse v := by
  have hrun := h.runParser (P := P) (by omega)
  rcases deepBody_cases P s with ⟨hn, he⟩ | ⟨_, _, he⟩ | ⟨code, hn, hr, he⟩ | ⟨rec, hn, hr, he⟩ <;>
    rw [he] at ht <;> cases ht <;> rw [State.nlayers_eq, ← h.layers] at hn
  · exact ⟨_, deepBody_full hn, h.deepFailed _⟩
  · exact ⟨_, deepBody_fails hn (hrun.trans hr), h.deepFailed _⟩
  · exact ⟨_, deepBody_decodes hn (hrun.trans hr),
      h.deepAppend (runParser_decodedFrom hP hmin (hok.1.trans hok.2) hr).inside⟩

end

theorem State.SameParse.deepLoop {P : Params} {s u t : State} (hP : P.Admissible) (hmin : 22 ≤ P.ethMinFrame)
    (rounds : Nat) (h : s.SameParse u) (hok : s.deepOk P) (ht : deepLoop P rounds s = some t) :
    ∃ v, deepLoop P rounds u = some v ∧ t.SameParse v := by
  induction rounds generalizing s u with
  | zero => cases ht; exact ⟨u, rfl, h⟩
  | succ rounds ih =>
    by_cases hp : s.dp.state = .parsing
    · have hpu : u.dp.state = .parsing := by rwa [h.dp]
      rw [deepLoop_parsing rounds hp] at ht
      obtain ⟨s', hs', ht⟩ := Option.bind_eq_some_iff.1 ht
      obtain ⟨u', hu', h'⟩ := h.deepBody hP hmin hok hs'
      rw [deepLoop_parsing rounds hpu, hu']
      exact ih h' (deepOk_deepBody hP hmin hok hs') ht
    · rw [deepLoop_terminal _ hp] at ht
      cases ht
      exact ⟨u, deepLoop_terminal _ (by rwa [h.dp]), h⟩

/-- `DEEP.RUN` on both parses. -/
theorem State.SameParse.exec_deepRun {s u t : State} (h : s.SameParse u) (hs : s.deepReady) (hu : u.deepReady)
    (ht : exec .deepRun s = .next t) : ∃ v, exec .deepRun u = .next v ∧ t.SameParse v := by
  have hloop : Machine.deepLoop build (build.maxDepth + 1) s = some t :=
    (hs.deepCommand _).symm.trans (deepOutcome_eq_next.1 ht)
  obtain ⟨v, hv, hsame⟩ := h.deepLoop build_admissible (by decide) _ hs.deepOk hloop
  exact ⟨v, deepOutcome_eq_next.2 ((hu.deepCommand _).trans hv), hsame⟩

/-- Settles O52: after `DEEP.START` the two parses are the same one, and `DEEP.RUN` keeps them so. -/
theorem deepParseDependsOnlyOnTheWindow : Obligations.DeepParseDependsOnlyOnTheWindow := by
  intro s u k hk hs hu hoff hlen hfcs hstrict hbytes
  have hsame : (s.parseOpened k).SameParse (u.parseOpened k) :=
    ⟨rfl, by simp only [State.parseOpened, State.succeed_dp, State.setDp_dp, hoff, hlen], rfl, hfcs, hstrict, hbytes⟩
  obtain ⟨_, _, t, _, _, ht⟩ := (State.parseOpened_deepReady hk hs).exec_deepRun
  obtain ⟨v, hv, hend⟩ :=
    hsame.exec_deepRun (State.parseOpened_deepReady hk hs) (State.parseOpened_deepReady hk hu) ht
  exact ⟨_, _, t, v, exec_deepStart_ok hk hs, exec_deepStart_ok hk hu, ht, hv, hend.layers, hend.dp, hend.status⟩

end Sys2Proof.Machine
end

section
/-! The system commands: the words of `NOP` and `CLEAR`, and the state each leaves (45_system). -/

namespace Sys2Proof.Machine

theorem State.succeed_eq (s : State) :
    s.succeed = { s with status := { err := false, code := .ok, layer := 0 } } :=
  s.setStatus_eq Status.okay

theorem exec_nop (s : State) : exec .nop s = .next s.succeed := rfl

theorem exec_clear (s : State) : exec .clear s = .next (clearCmd s) := rfl

/-- `CLEAR` field by field: four groups of registers at their reset values, then `STATUS` (45_system R222). -/
theorem clearCmd_eq (s : State) :
    clearCmd s =
      { s with cur := CursorRegs.reset, dp := Sequencer.reset, layers := [], res := Results.reset,
               status := { err := false, code := .ok, layer := 0 } } := by
  rw [clearCmd, State.succeed_eq, State.setRes_eq, State.setLayers_eq, State.setDp_eq, State.setCur_eq]

/-- Settles O55: the zero word is the encoding of `NOP`, and `NOP` only succeeds. -/
theorem nopWritesOnlyStatus : Obligations.NopWritesOnlyStatus := by
  refine ⟨?_, fun s => ?_⟩
  · exact decode_encode (i := .nop) rfl
  · rw [exec_nop, State.succeed_eq]

/-- Settles O56: the word is the encoding of `CLEAR`; the reset values of the four groups are those of
10_state R53. -/
theorem clearDropsEveryResult : Obligations.ClearDropsEveryResult := by
  refine ⟨?_, fun s => ?_⟩
  · exact decode_encode (i := .clear) rfl
  · rw [exec_clear, clearCmd_eq, CursorRegs.reset, Sequencer.reset, Results.reset]

end Sys2Proof.Machine
end

section
/-! How a command ends: success, one of the failures that write `STATUS` alone, or the first failing test of a parser
(60_exceptions R230 to R239). -/

namespace Sys2Proof.Machine

/-! ### The states after a failure, by `STATUS` -/

@[simp] theorem State.onlyStatus_status (s : State) (code : Code) :
    (s.onlyStatus code).status = { err := true, code := code, layer := 0 } := rfl

@[simp] theorem State.parseFailed_status (s : State) (code : Code) :
    (s.parseFailed code).status = { err := true, code := code, layer := 0 } := rfl

@[simp] theorem State.deepFailed_status (s : State) (code : Code) :
    (s.deepFailed code).status = { err := true, code := code, layer := BitVec.ofNat 8 s.layers.length } := rfl

/-! ### The codes of a parser (60_exceptions R232) -/

section
variable {P : Params} {s : State} {kind : Kind} {off len : Nat} {ph : PseudoHeader} {code : Code}
  (h : s.firstFailure P kind off len ph = some code)
include h

/-- A failing test of a parser gives a parser code, one of those listed for the `PARSE.*` command of its kind. -/
theorem State.firstFailure_mem_codes :
    code ∈ parserCodes ∧ ∀ i : Instr, kind.parseCommand = some i → code ∈ i.codes := by
  unfold State.firstFailure at h
  cases kind with
  | none => cases h
  | _ => dsimp only at h; split_ifs at h <;> cases h <;> exact ⟨by decide, fun i hi => by cases hi; decide⟩

/-- With `STRICT = 0` the checksum tests and the UDP length test pass; what is left of `MalformedPacket` is the minimum
frame of an Ethernet parse with `FCS_EN` (60_exceptions R239, 42_parsers_link_net R144). -/
theorem State.firstFailure_lenient (hstrict : s.opr.strict = false) :
    code ≠ .checksumMismatch ∧
      (code = .malformedPacket → kind = .eth ∧ s.opr.fcsEn = true ∧ len < P.ethMinFrame) := by
  simp only [State.firstFailure, hstrict, Bool.false_eq_true, false_and, if_false] at h
  cases kind with
  | none => cases h
  | eth =>
    dsimp only at h
    split_ifs at h with hmin <;> cases h
    · exact ⟨by decide, fun _ => ⟨rfl, hmin⟩⟩
    all_goals exact ⟨by decide, nofun⟩
  | _ => dsimp only at h; split_ifs at h <;> cases h <;> exact ⟨by decide, nofun⟩

end

/-! ### Failing steps of a deep parse (44_dispatch_deep R201, R203) -/

/-- The body of a step fails in `u` with `code`: the depth bound, or the first failing test of the selected parser. -/
def State.BodyFails (u : State) (code : Code) : Prop :=
  code = .maxDepthExceeded ∨
    ∃ ph, u.firstFailure build u.dp.next u.dp.off.toNat u.dp.len.toNat ph = some code

theorem State.BodyFails.isError {u : State} {code : Code} (h : u.BodyFails code) : code.isError = true := by
  obtain rfl | ⟨ph, hf⟩ := h
  · rfl
  · exact State.firstFailure_isError hf

theorem State.BodyFails.mem_codes {u : State} {code : Code} (h : u.BodyFails code) :
    code = .maxDepthExceeded ∨ code ∈ parserCodes :=
  h.imp_right fun ⟨_, hf⟩ => (State.firstFailure_mem_codes hf).1

/-- Everything the body of a step can do, by what `STATUS` tells. -/
theorem deepBody_ends {s t : State} (ht : deepBody build s = some t) :
    (∃ code, s.BodyFails code ∧ t = s.deepFailed code) ∨
      ∃ rec, s.dp.next ≠ .none ∧ t = deepAppend build s rec := by
  rcases deepBody_cases build s with ⟨_, he⟩ | ⟨_, _, he⟩ | ⟨code, _, hr, he⟩ | ⟨rec, _, hr, he⟩ <;>
    rw [he] at ht <;> cases ht
  · exact .inl ⟨_, .inl rfl, rfl⟩
  · obtain ⟨_, _, ha⟩ := Option.map_eq_some_iff.1 ((runParser_answer _ _ _ _ _).symm.trans hr)
    exact .inl ⟨code, .inr ⟨_, answerOf_eq_error.1 ha⟩, rfl⟩
  · exact .inr ⟨rec, fun hk => Option.some_ne_none _ (hr.symm.trans (runParser_eq_none.2 hk)), rfl⟩

/-- From `s` a deep parse takes `m` steps to `u`, where it is still parsing and the body of the next step fails. Only
the first layer can be an Ethernet frame. -/
structure State.DeepFails (s : State) (m : Nat) (u : State) (code : Code) : Prop where
  steps : deepSteps m s = .next u
  parsing : u.dp.state = .parsing
  reason : u.BodyFails code
  opr : u.opr = s.opr
  ethFirst : u = s ∨ u.dp.next ≠ .eth

theorem State.DeepFails.now {s : State} {code : Code} (hp : s.dp.state = .parsing) (h : s.BodyFails code) :
    s.DeepFails 0 s code :=
  ⟨rfl, hp, h, rfl, .inl rfl⟩

/-- A step that goes on comes before the failing one; its layer selects a parser other than Ethernet's. -/
theorem State.DeepFails.after {s u : State} {rec : LayerRec} {m : Nat} {code : Code} (step : s.Decodes rec)
    (known : dispatch build rec.ind ≠ .none) (h : (deepAppend build s rec).DeepFails m u code) :
    s.DeepFails (m + 1) u code where
  steps := by rw [deepSteps, step.ready.exec_deepStep, step.body]; exact h.steps
  parsing := h.parsing
  reason := h.reason
  opr := h.opr
  ethFirst := by
    refine .inr (h.ethFirst.elim (fun hu => ?_) id)
    rw [hu, deepAppend_known known]
    exact dispatch_ne_eth build_admissible rec.ind

/-! ### The ends of a command -/

/-- `t` has one of the two outcomes that are not errors, the second one only after a lookup (60_exceptions R231). -/
structure Succeeds (i : Instr) (t : State) : Prop where
  err : t.status.err = false
  code : t.status.code = .ok ∨ t.status.code = .unsupportedProtocol ∧ .unsupportedProtocol ∈ i.codes

theorem Succeeds.ok {i : Instr} {t : State} (h : t.status = Status.okay) : Succeeds i t := by
  constructor <;> simp [h]

theorem Succeeds.lookup {i : Instr} {t : State} {unmapped : Bool} {n : Nat}
    (h : t.status = lookupStatus unmapped n) (hi : .unsupportedProtocol ∈ i.codes) : Succeeds i t := by
  constructor
  case err => rw [h]; rfl
  case code => cases unmapped <;> simp [h, hi, lookupStatus]

/-- The command `i` takes `s` to `t` with one outcome: which one, why, and with what effects (60_exceptions R236,
R237). -/
inductive Ends (i : Instr) (s t : State) : Prop
  | done (success : Succeeds i t)
  | illegal (why : i.wellFormed = false ∨ (i.readsPseudoHeader = true ∧ s.opr.phKind = 3))
      (state : t = s.onlyStatus .illegalCommand)
  | badWindow {o n : Nat} (slice : s.slice i = some (o, n)) (outside : ¬ s.sliceOk build o n)
      (state : t = s.onlyStatus .badWindow)
  | badState (deep : i = .deepStep ∨ i = .deepRun) (state : t = s.onlyStatus .badState)
  | short (listed : .unexpectedEof ∈ i.codes) (frame : i.writesLayers = false)
      (state : t = s.onlyStatus .unexpectedEof)
  | parseFails {kind : Kind} {ph : PseudoHeader} {code : Code} (command : kind.parseCommand = some i)
      (failure : s.firstFailure build kind s.winOff s.winLen ph = some code) (state : t = s.parseFailed code)
  | deepFails {m : Nat} {u : State} {code : Code} (deep : i = .deepStep ∧ m = 0 ∨ i = .deepRun)
      (fails : s.DeepFails m u code) (state : t = u.deepFailed code)

/-! ### The shared operations of the commands -/

section
variable {i : Instr} {s : State}

theorem Ends.ok {t : State} (h : t.status = Status.okay) : Ends i s t := .done (.ok h)

theorem cursorCommand_ends {n : Nat} {effect : State} (hslice : s.slice i = some (s.cur.base.toNat, s.cur.len.toNat))
    (hlisted : .unexpectedEof ∈ i.codes) (hframe : i.writesLayers = false) (heffect : effect.status = Status.okay) :
    Ends i s (cursorCommand build s n effect) := by
  rcases cursorCommand_cases build s n effect with ⟨hc, he⟩ | ⟨_, _, he⟩ | ⟨_, _, he⟩ <;> rw [he]
  · exact .badWindow hslice hc rfl
  · exact .short hlisted hframe rfl
  · exact .ok heffect

section
variable (hslice : s.slice i = some (s.winOff, s.winLen))
include hslice

theorem csumCommand_ends (hlisted : .unexpectedEof ∈ i.codes) (hframe : i.writesLayers = false) (p : Nat)
    (verify : Nat → Nat → Verdict) : Ends i s (csumCommand build s p verify) := by
  rcases csumCommand_cases build s p verify with ⟨hw, he⟩ | ⟨_, _, he⟩ | ⟨_, _, he⟩ <;> rw [he]
  · exact .badWindow hslice hw rfl
  · exact .short hlisted hframe rfl
  · exact .ok rfl

section
variable {kind : Kind} (hcommand : kind.parseCommand = some i)
include hcommand

theorem parseCommand_ends {ph : PseudoHeader} {rec : LayerRec} {parser : Nat → Nat → Except Code LayerRec}
    (hparser : parser s.winOff s.winLen = answerOf (s.firstFailure build kind s.winOff s.winLen ph) rec) :
    Ends i s (parseCommand build s parser) := by
  rcases parseCommand_cases build s parser with ⟨hw, he⟩ | ⟨_, he⟩ <;> rw [he]
  · exact .badWindow hslice hw rfl
  · rw [hparser]
    cases hf : s.firstFailure build kind s.winOff s.winLen ph with
    | none => exact .ok rfl
    | some code => exact .parseFails hcommand hf rfl

theorem transportCommand_ends (hph : i.readsPseudoHeader = true) {rec : PseudoHeader → LayerRec}
    {parser : PseudoHeader → Nat → Nat → Except Code LayerRec}
    (hparser : ∀ ph, parser ph s.winOff s.winLen =
      answerOf (s.firstFailure build kind s.winOff s.winLen ph) (rec ph)) :
    Ends i s (transportCommand build s parser) := by
  rcases transportCommand_cases build s parser with ⟨hn, he⟩ | ⟨ph, _, he⟩ <;> rw [he]
  · exact .illegal (.inr ⟨hph, State.pseudoHeader_eq_none.1 hn⟩) rfl
  · exact parseCommand_ends hslice hcommand (hparser ph)

end

end

theorem curOpenCmd_ends : Ends .curOpen s (curOpenCmd build s) := by
  rcases curOpenCmd_cases build s with ⟨hw, he⟩ | ⟨_, he⟩ <;> rw [he]
  · exact .badWindow rfl hw rfl
  · exact .ok rfl

theorem curSkipCmd_ends : Ends .curSkip s (curSkipCmd s) := by
  rcases curSkipCmd_cases s with ⟨_, he⟩ | ⟨_, he⟩ <;> rw [he]
  · exact .short (by decide) rfl rfl
  · exact .ok rfl

theorem csumXportCmd_ends (x : Xport) : Ends (.csumXport x) s (csumXportCmd build x s) := by
  rcases csumXportCmd_cases build x s with ⟨hn, he⟩ | ⟨ph, _, he⟩ <;> rw [he]
  · exact .illegal (.inr ⟨rfl, State.pseudoHeader_eq_none.1 hn⟩) rfl
  · exact csumCommand_ends rfl (by simp [Instr.codes]) rfl _ _

theorem deepStartCmd_ends (kind : Kind) : Ends (.deepStart kind) s (deepStartCmd build kind s) := by
  rcases deepStartCmd_cases build kind s with ⟨hk, he⟩ | ⟨_, hw, he⟩ | ⟨_, _, he⟩ <;> rw [he]
  · exact .illegal (.inl (decide_eq_false (not_not.2 hk))) rfl
  · exact .badWindow rfl hw rfl
  · exact .ok rfl

/-! ### The steps of a deep parse -/

theorem deepCommand_ends (hi : i = .deepStep ∨ i = .deepRun) {work : Option State} {t : State}
    (hwork : s.dp.state = .parsing → s.deepOk build → work = some t → Ends i s t)
    (ht : deepCommand build s work = some t) : Ends i s t := by
  have hslice : s.slice i = some (s.dp.off.toNat, s.dp.len.toNat) := by rcases hi with rfl | rfl <;> rfl
  rcases deepCommand_cases build s work with ⟨_, he⟩ | ⟨_, hd, he⟩ | ⟨hp, hd, he⟩ <;> rw [he] at ht
  · cases ht; exact .badState hi rfl
  · cases ht; exact .badWindow hslice hd rfl
  · exact hwork hp hd ht

theorem deepAppend_succeeds (hi : .unsupportedProtocol ∈ i.codes) (rec : LayerRec) :
    Succeeds i (deepAppend build s rec) :=
  .lookup rfl hi

theorem deepStep_ends {t : State} (hp : s.dp.state = .parsing) (ht : deepBody build s = some t) :
    Ends .deepStep s t := by
  rcases deepBody_ends ht with ⟨code, hfails, rfl⟩ | ⟨rec, _, rfl⟩
  · exact .deepFails (.inl ⟨rfl, rfl⟩) (.now hp hfails) rfl
  · exact .done (deepAppend_succeeds (by decide) rec)

/-- A run ends with a layer that selects no parser, or with a failing step. -/
theorem State.RunsTo.ends {n : Nat} {t : State} {new : List LayerRec} (h : s.RunsTo n new t) :
    Succeeds .deepRun t ∨ ∃ m u code, s.DeepFails m u code ∧ t = u.deepFailed code := by
  induction h with
  | failed ready body =>
    rcases deepBody_ends body with ⟨code, hfails, he⟩ | ⟨_, _, he⟩
    · exact .inr ⟨0, _, code, .now ready.parsing hfails, he⟩
    · exact Bool.noConfusion (congrArg (fun t : State => t.status.err) he)
  | terminated _ _ => exact .inl (deepAppend_succeeds (by decide) _)
  | goesOn step known _ ih =>
    exact ih.imp_right fun ⟨m, u, code, hfails, he⟩ => ⟨m + 1, u, code, hfails.after step known, he⟩

/-- A state with no parser selected runs into the depth bound or has no outcome; every other one is ready. -/
theorem deepRun_ends {t : State} (hp : s.dp.state = .parsing) (hok : s.deepOk build)
    (ht : deepLoop build (build.maxDepth + 1) s = some t) : Ends .deepRun s t := by
  have hfirst := ht
  rw [deepLoop_parsing _ hp] at hfirst
  obtain ⟨u, hu, hrest⟩ := Option.bind_eq_some_iff.1 hfirst
  rcases deepBody_ends hu with ⟨code, hfails, rfl⟩ | ⟨rec, hk, rfl⟩
  · rw [deepLoop_terminal _ (by simp)] at hrest
    cases hrest
    exact .deepFails (.inr rfl) (.now hp hfails) rfl
  · have hready : s.deepReady := ⟨hp, hk, hok⟩
    obtain ⟨n, new, t', hn, hrun, _⟩ := hready.exec_deepRun
    obtain rfl : t' = t := Option.some.inj ((hrun.deepLoop hn).symm.trans ht)
    rcases hrun.ends with hs | ⟨m, u, code, hfails, he⟩
    · exact .done hs
    · exact .deepFails (.inr rfl) hfails he

end

/-! ### Every command -/

/-- Every command that answers a next state ends in one of the ways of `Ends` (60_exceptions R230). -/
theorem exec_ends {i : Instr} {s t : State} (ht : exec i s = .next t) : Ends i s t := by
  cases i with
  | nop | curRem | clear => cases ht; exact .ok rfl
  | curOpen => cases ht; exact curOpenCmd_ends
  | curRd8 | curRd16 | curRd32 | curRdb | curPeek =>
    cases ht; exact cursorCommand_ends rfl (by decide) rfl rfl
  | curSkip => cases ht; exact curSkipCmd_ends
  | csumIp4 => cases ht; exact csumCommand_ends rfl (by decide) rfl _ _
  | csumXport x => cases ht; exact csumXportCmd_ends x
  | parseEth => cases ht; exact parseCommand_ends rfl (kind := .eth) rfl (parseEth_answer build s _ _ .absent)
  | parseVlan => cases ht; exact parseCommand_ends rfl (kind := .vlan) rfl (parseVlan_answer build s _ _ .absent)
  | parseIp4 => cases ht; exact parseCommand_ends rfl (kind := .ip4) rfl (parseIp4_answer build s _ _ .absent)
  | parseIp6 => cases ht; exact parseCommand_ends rfl (kind := .ip6) rfl (parseIp6_answer build s _ _ .absent)
  | parseTcp => cases ht; exact transportCommand_ends rfl (kind := .tcp) rfl rfl (parseTcp_answer build s _ _)
  | parseUdp => cases ht; exact transportCommand_ends rfl (kind := .udp) rfl rfl (parseUdp_answer build s _ _)
  | parseIcmp => cases ht; exact transportCommand_ends rfl (kind := .icmp) rfl rfl (parseIcmp_answer build s _ _)
  | dispEtype | dispIpproto => cases ht; exact .done (.lookup rfl (by decide))
  | deepStart kind => cases ht; exact deepStartCmd_ends kind
  | deepStep => exact deepCommand_ends (.inl rfl) (fun hp _ => deepStep_ends hp) (deepOutcome_eq_next.1 ht)
  | deepRun => exact deepCommand_ends (.inr rfl) deepRun_ends (deepOutcome_eq_next.1 ht)

end Sys2Proof.Machine
end

section
/-! The outcomes of the commands, their codes and their effects, read off the ways a command can end
(60_exceptions R230 to R239). -/

namespace Sys2Proof.Machine

/-! ### Codes (60_exceptions R231, R232) -/

/-- The window check belongs to the commands given a slice (60_exceptions R232, R234). -/
theorem badWindow_mem_codes {i : Instr} {s : State} {o n : Nat} (h : s.slice i = some (o, n)) :
    .badWindow ∈ i.codes := by
  cases i with
  | nop | curRem | curSkip | dispEtype | dispIpproto | clear => cases h
  | _ => simp [Instr.codes]

/-- The codes of the checks a command makes before its own work: their failures write `STATUS` alone (60_exceptions
R236, R237). -/
def checkCodes : List Code := [.illegalCommand, .badWindow, .badState]

theorem notMem_checkCodes_of_parserCode {code : Code} (h : code ∈ parserCodes) : code ∉ checkCodes :=
  (by decide : ∀ c ∈ parserCodes, c ∉ checkCodes) code h

theorem State.BodyFails.notMem_checkCodes {u : State} {code : Code} (h : u.BodyFails code) : code ∉ checkCodes := by
  rcases h.mem_codes with rfl | hc
  · decide
  · exact notMem_checkCodes_of_parserCode hc

section
variable {i : Instr} {s t : State} (h : Ends i s t)
include h

theorem Ends.err_eq : t.status.err = t.status.code.isError := by
  cases h with
  | done success => rcases success.code with hc | ⟨hc, _⟩ <;> rw [success.err, hc] <;> rfl
  | illegal _ state | badWindow _ _ state | badState _ state | short _ _ state => subst state; rfl
  | parseFails _ failure state => subst state; exact (State.firstFailure_isError failure).symm
  | deepFails _ fails state => subst state; exact fails.reason.isError.symm

theorem Ends.code_mem : t.status.code ∈ ([.ok, .illegalCommand] : List Code) ++ i.codes := by
  simp only [List.cons_append, List.nil_append, List.mem_cons]
  cases h with
  | done success =>
    rcases success.code with hc | ⟨hc, hlisted⟩
    · exact .inl hc
    · exact .inr (.inr (hc ▸ hlisted))
  | illegal _ state => subst state; exact .inr (.inl rfl)
  | badWindow slice _ state => subst state; exact .inr (.inr (badWindow_mem_codes slice))
  | badState deep state => subst state; rcases deep with rfl | rfl <;> simp [Instr.codes]
  | short listed _ state => subst state; exact .inr (.inr listed)
  | parseFails command failure state =>
    subst state
    exact .inr (.inr ((State.firstFailure_mem_codes failure).2 i command))
  | deepFails deep fails state =>
    subst state
    have hcodes : i.codes = Instr.deepStep.codes := by rcases deep with ⟨rfl, _⟩ | rfl <;> rfl
    rw [hcodes]
    rcases fails.reason.mem_codes with rfl | hc
    · simp [Instr.codes]
    · exact .inr (.inr (List.mem_append_right _ hc))

/-- A code of the checks tells which check failed, and that nothing but `STATUS` changed. -/
theorem Ends.check_cases (hc : t.status.code ∈ checkCodes) :
    ((i.wellFormed = false ∨ (i.readsPseudoHeader = true ∧ s.opr.phKind = 3)) ∧ t = s.onlyStatus .illegalCommand) ∨
      (∃ o n, s.slice i = some (o, n) ∧ ¬ s.sliceOk build o n ∧ t = s.onlyStatus .badWindow) ∨
      ((i = .deepStep ∨ i = .deepRun) ∧ t = s.onlyStatus .badState) := by
  cases h with
  | illegal why state => exact .inl ⟨why, state⟩
  | badWindow slice outside state => exact .inr (.inl ⟨_, _, slice, outside, state⟩)
  | badState deep state => exact .inr (.inr ⟨deep, state⟩)
  | done success => rcases success.code with he | ⟨he, _⟩ <;> rw [he] at hc <;> exact absurd hc (by decide)
  | short _ _ state => subst state; exact absurd hc (by simp [checkCodes])
  | parseFails _ failure state =>
    subst state
    exact absurd hc (notMem_checkCodes_of_parserCode (State.firstFailure_mem_codes failure).1)
  | deepFails _ fails state => subst state; exact absurd hc fails.reason.notMem_checkCodes

theorem Ends.illegal_of_code (hc : t.status.code = .illegalCommand) :
    i.wellFormed = false ∨ (i.readsPseudoHeader = true ∧ s.opr.phKind = 3) := by
  rcases h.check_cases (by rw [hc]; decide) with ⟨why, _⟩ | ⟨_, _, _, _, rfl⟩ | ⟨_, rfl⟩
  · exact why
  · cases hc
  · cases hc

end

/-- Settles O18. -/
theorem eachCommandEndsInItsCodes : Obligations.EachCommandEndsInItsCodes := fun _ _ _ ht =>
  have h := exec_ends ht
  ⟨h.err_eq, h.code_mem, h.illegal_of_code⟩

/-! ### Every command has an outcome (60_exceptions R230) -/

theorem deepCommand_total {s : State} {work : Option State} (hnext : s.dp.state = .parsing → s.dp.next ≠ .none)
    (hwork : s.deepReady → ∃ t, work = some t) : ∃ t, deepOutcome (deepCommand build s work) = .next t := by
  rcases deepCommand_cases build s work with ⟨_, he⟩ | ⟨_, _, he⟩ | ⟨hp, hd, he⟩ <;> rw [he]
  · exact ⟨_, rfl⟩
  · exact ⟨_, rfl⟩
  · obtain ⟨t, rfl⟩ := hwork ⟨hp, hnext hp, hd⟩
    exact ⟨t, rfl⟩

/-- No command stops while an open deep parse has a parser selected (10_state R37, 44_dispatch_deep R202). -/
theorem exec_total {s : State} (i : Instr) (hnext : s.dp.state = .parsing → s.dp.next ≠ .none) :
    ∃ t, exec i s = .next t := by
  cases i with
  | deepStep =>
    refine deepCommand_total hnext fun hready => ?_
    rcases hready.deepBody_cases with ⟨_, hbody⟩ | ⟨_, _, hstep⟩
    · exact ⟨_, hbody⟩
    · exact ⟨_, hstep.body⟩
  | deepRun =>
    refine deepCommand_total hnext fun hready => ?_
    obtain ⟨_, _, t, hn, hrun⟩ := hready.runs build.maxDepth (Nat.le_add_left _ _)
    exact ⟨t, hrun.deepLoop hn⟩
  | _ => exact ⟨_, rfl⟩

/-- Settles O17: a legal word runs its command, which ends in one of the listed ways; an illegal one fails. -/
theorem everyCommandEndsInOneOutcome : Obligations.EveryCommandEndsInOneOutcome := by
  intro s w hnext
  unfold runCommand
  cases decode w with
  | illegal why => exact ⟨_, rfl, rfl⟩
  | cmd i =>
    obtain ⟨t, ht⟩ := exec_total i hnext
    exact ⟨t, ht, (exec_ends ht).err_eq⟩

/-! ### The window check (60_exceptions R234) -/

/-- Settles O22: outside the buffer the check refuses the command; inside, no other check or parser gives its code. -/
theorem slicesOutsideTheBufferAreRefused : Obligations.SlicesOutsideTheBufferAreRefused := by
  refine fun i s o n hwf hslice hph hdeep => ⟨exec_badWindow hwf hslice hph hdeep, fun hok t ht hc => ?_⟩
  rcases (exec_ends ht).check_cases (by rw [hc]; decide) with ⟨_, rfl⟩ | ⟨_, _, hslice', hout, _⟩ | ⟨_, rfl⟩
  · cases hc
  · cases hslice.symm.trans hslice'
    exact hout hok
  · cases hc

/-! ### The effects of a failure (60_exceptions R236) -/

theorem Kind.writesLayers_of_parseCommand {k : Kind} {i : Instr} (h : k.parseCommand = some i) :
    i.writesLayers = true ∧ i ≠ .deepStep ∧ i ≠ .deepRun := by
  cases k with
  | none => cases h
  | _ => cases h; exact ⟨rfl, nofun, nofun⟩

/-- `NOP`, `DISP.*`, `CLEAR` and `DEEP.START` fail in their checks only (60_exceptions R232). -/
theorem checkCode_of_error {i : Instr} (hi : i ∈ [.nop, .dispEtype, .dispIpproto, .clear] ∨ ∃ k, i = .deepStart k) :
    ∀ code ∈ ([.ok, .illegalCommand] : List Code) ++ i.codes, code.isError = true → code ∈ checkCodes := by
  simp only [List.mem_cons, List.not_mem_nil, or_false] at hi
  rcases hi with (rfl | rfl | rfl | rfl) | ⟨k, rfl⟩
  case inr => exact (by decide : ∀ code ∈ [.ok, .illegalCommand, .badWindow], code.isError = true → code ∈ checkCodes)
  all_goals decide

section
variable {i : Instr} {s t : State} (h : Ends i s t)
include h

theorem Ends.onlyStatus_of_check (hc : t.status.code ∈ checkCodes) : t = s.onlyStatus t.status.code := by
  rcases h.check_cases hc with ⟨_, rfl⟩ | ⟨_, _, _, _, rfl⟩ | ⟨_, rfl⟩ <;> rfl

variable (herr : t.status.err = true) (hc : t.status.code ∉ checkCodes)
include herr hc

/-- A failure after the checks has the effects of its command's row (60_exceptions R236). -/
theorem Ends.lateFailure :
    (i.writesLayers = false → t = s.onlyStatus t.status.code) ∧
      ((∃ k : Kind, k.parseCommand = some i) → t = s.parseFailed t.status.code) ∧
      (i = .deepStep → t = s.deepFailed t.status.code) ∧
      (i = .deepRun →
        ∃ (n : Nat) (u : State), deepSteps n s = .next u ∧ u.dp.state = .parsing ∧
          t = u.deepFailed t.status.code) := by
  cases h with
  | done success => exact Bool.noConfusion (success.err.symm.trans herr)
  | illegal _ state | badWindow _ _ state | badState _ state => subst state; exact absurd (by simp [checkCodes]) hc
  | short _ frame state =>
    subst state
    refine ⟨fun _ => rfl, fun ⟨k, hk⟩ => ?_, fun hi => ?_, fun hi => ?_⟩
    · exact Bool.noConfusion (frame.symm.trans (Kind.writesLayers_of_parseCommand hk).1)
    · subst hi; cases frame
    · subst hi; cases frame
  | parseFails command _ state =>
    subst state
    obtain ⟨hwrites, hstep, hrun⟩ := Kind.writesLayers_of_parseCommand command
    exact ⟨fun hl => Bool.noConfusion (hl.symm.trans hwrites), fun _ => rfl, fun hi => absurd hi hstep,
      fun hi => absurd hi hrun⟩
  | deepFails deep fails state =>
    subst state
    have hnotParse : ¬ ∃ k : Kind, k.parseCommand = some i := by
      rintro ⟨k, hk⟩
      obtain ⟨_, hstep, hrun⟩ := Kind.writesLayers_of_parseCommand hk
      exact deep.elim (fun hd => hstep hd.1) hrun
    rcases deep with ⟨rfl, rfl⟩ | rfl
    · cases fails.steps
      exact ⟨nofun, fun hk => absurd hk hnotParse, fun _ => rfl, nofun⟩
    · exact ⟨nofun, fun hk => absurd hk hnotParse, nofun, fun _ => ⟨_, _, fails.steps, fails.parsing, rfl⟩⟩

theorem Ends.not_checksOnly : i ∉ [.nop, .dispEtype, .dispIpproto, .clear] ∧ ∀ k : Kind, i ≠ .deepStart k := by
  have hcheck : ¬ (i ∈ [.nop, .dispEtype, .dispIpproto, .clear] ∨ ∃ k, i = .deepStart k) := fun hi =>
    hc (checkCode_of_error hi _ h.code_mem (h.err_eq ▸ herr))
  exact ⟨fun hi => hcheck (.inl hi), fun k hi => hcheck (.inr ⟨k, hi⟩)⟩

end

/-- Settles O21: the failures of the checks, then the rows of the other failures. -/
theorem failuresHaveExactlyTheirEffects : Obligations.FailuresHaveExactlyTheirEffects := by
  refine ⟨fun w s hw => ?_, fun i s t ht herr => ⟨(exec_ends ht).onlyStatus_of_check, fun hc => ?_⟩⟩
  · unfold runCommand
    cases hd : decode w with
    | cmd i => exact absurd hd (hw i)
    | illegal why => rfl
  · have h := exec_ends ht
    obtain ⟨hstatus, hparse, hstep, hrun⟩ := h.lateFailure herr hc
    exact ⟨hstatus, hparse, hstep, hrun, h.not_checksOnly herr hc⟩

/-! ### Lenient mode (60_exceptions R239) -/

/-- With `STRICT = 0` no command ends in `ChecksumMismatch`, and `MalformedPacket` is left to the minimum frame: in
`PARSE.ETH`, and in the first step of a deep parse that begins with an Ethernet frame. -/
theorem Ends.lenient {i : Instr} {s t : State} (h : Ends i s t) (hstrict : s.opr.strict = false) :
    t.status.code ≠ .checksumMismatch ∧
      (t.status.code = .malformedPacket →
        i = .parseEth ∨ (i = .deepStep ∨ i = .deepRun) ∧
          s.dp.next = .eth ∧ s.opr.fcsEn = true ∧ s.dp.len.toNat < build.ethMinFrame ∧ t.layers = s.layers) := by
  cases h with
  | done success => rcases success.code with he | ⟨he, _⟩ <;> rw [he] <;> exact ⟨nofun, nofun⟩
  | illegal _ state | badWindow _ _ state | badState _ state | short _ _ state => subst state; exact ⟨nofun, nofun⟩
  | parseFails command failure state =>
    subst state
    obtain ⟨hck, hmalformed⟩ := State.firstFailure_lenient failure hstrict
    refine ⟨hck, fun hc => .inl ?_⟩
    obtain ⟨rfl, _⟩ := hmalformed hc
    exact (Option.some.inj command).symm
  | deepFails deep fails state =>
    subst state
    rcases fails.reason with rfl | ⟨_, hf⟩
    · exact ⟨nofun, nofun⟩
    · obtain ⟨hck, hmalformed⟩ := State.firstFailure_lenient hf (fails.opr ▸ hstrict)
      refine ⟨hck, fun hc => .inr ?_⟩
      obtain ⟨hk, hfcs, hlen⟩ := hmalformed hc
      obtain rfl := fails.ethFirst.resolve_right (not_not.2 hk)
      exact ⟨deep.imp_left And.left, hk, hfcs, hlen, rfl⟩

/-- Settles O25: `PARSE.UDP` is no deep parse, and a deep parse is no `PARSE.ETH`. -/
theorem lenientMismatchesNeverFail : Obligations.LenientMismatchesNeverFail := by
  intro i s t hstrict ht
  obtain ⟨hck, hmalformed⟩ := (exec_ends ht).lenient hstrict
  refine ⟨hck, ?_, fun hi hc => ?_⟩
  · rintro rfl hc
    rcases hmalformed hc with he | ⟨he | he, _⟩ <;> cases he
  · rcases hmalformed hc with rfl | ⟨_, heffect⟩
    · rcases hi with he | he <;> cases he
    · exact heffect

end Sys2Proof.Machine
end

section
/-! Reset and operand registers: what the platform's reset leaves, and what no command writes
(70_reset_and_hazards R260 to R262, R265). -/

namespace Sys2Proof.Machine

/-- No byte is stored after a reset, so `BUF` holds the free values drawn for that reset (70_reset_and_hazards R262). -/
theorem platformReset_byteAt (s : State) (a : Nat) :
    (platformReset s).byteAt a = Config.bufByte (s.resets + 1) a := rfl

/-- Settles O14: the reset is the step's only effect, and it keeps the rest of the host's queue. -/
theorem platformResetRestoresTheResetState : Obligations.PlatformResetRestoresTheResetState := fun s rest hops =>
  ⟨platformReset (s.setHostOps rest), step_reset hops, rfl, platformReset_byteAt (s.setHostOps rest)⟩

/-- Settles O19: a success and a failure keep alike what only the host writes. -/
theorem operandsAreNotConsumed : Obligations.OperandsAreNotConsumed := by
  intro i s t ht
  have hkeeps : KeepsHost s t := exec_keepsHost ht
  exact ⟨hkeeps.opr, hkeeps.mem, hkeeps.byteAt, hkeeps.hostOps, hkeeps.readData, hkeeps.reads, hkeeps.resets⟩

end Sys2Proof.Machine
end
